-- ==== Sys2Proof/Word.lean ====
section
/-! DEFINITION. The word types of the controller: a data unit is a byte (spec R7), a request word has 16 bits and OPEN's argument word 32 (R72, R73). -/

namespace Sys2Proof

/-- R7: the data unit, 8 bits, unsigned. -/
abbrev Byte := BitVec 8

/-- R73: a request word `REQ`; also the width of a result word `RES` (R80 to R83). -/
abbrev ReqWord := BitVec 16

/-- R75: the argument word `ARG` of OPEN. -/
abbrev ArgWord := BitVec 32

end Sys2Proof
end

