-- ==== Sys2Proof/Syntax.lean ====
section
/-! DEFINITION. The requests of the controller as syntax: the ten operations of the opcode map (R77), their ports and formats, raw request words, pseudo-instructions (R85), and the names of the faults (R120). -/

namespace Sys2Proof

/-- R72: the two request ports. -/
inductive Port where
  | consumer
  | producer
  deriving DecidableEq, Repr

/-- R74: the formats B (byte operand), Z (no operand) and O (open). -/
inductive Format where
  | b
  | z
  | o
  deriving DecidableEq, Repr

/-- R77: the ten requests, in the table's order; `openLine` is OPEN (`open` is a word of Lean). -/
inductive Instr where
  | push (b : Byte)
  | rxsvc
  | read
  | peek
  | avail
  | flush
  | poll
  | openLine (baud : ArgWord)
  | close
  | write (b : Byte)
  deriving DecidableEq, Repr

/-- R77: the operations without their operands, one for each row of the opcode map. -/
inductive Operation where
  | push
  | rxsvc
  | read
  | peek
  | avail
  | flush
  | poll
  | openLine
  | close
  | write
  deriving DecidableEq, Repr

/-- R72, R74: a raw request as it lies on a port: the word `REQ`, and the word `ARG`, which is on the bus only where
`REQ[15:12] = 0x8` (R76) and is looked at only there. -/
structure Request where
  req : ReqWord
  arg : ArgWord
  deriving DecidableEq, Repr

/-- R120: the faults of a model of the controller. -/
inductive FaultCode where
  | illegalOpcode
  | reservedBits
  | wrongPort
  | pollInInterruptMode
  | producerInPolledMode
  | txDisabledWrite
  | baudZero
  | unwrittenRead
  deriving DecidableEq, Repr

/-- R120: the code of a fault. -/
def FaultCode.number : FaultCode → Nat
  | .illegalOpcode => 1
  | .reservedBits => 2
  | .wrongPort => 3
  | .pollInInterruptMode => 4
  | .producerInPolledMode => 5
  | .txDisabledWrite => 6
  | .baudZero => 7
  | .unwrittenRead => 8

/-- R85: the pseudo-instructions. -/
inductive Pseudo where
  | writes (bs : List Byte)
  | pop
  | clear
  | begin (baud : ArgWord)
  | finish
  deriving DecidableEq, Repr

/-- R85: what each pseudo-instruction stands for, in order; `finish` is END. -/
def Pseudo.expand : Pseudo → List Instr
  | .writes bs => bs.map Instr.write
  | .pop => [.read]
  | .clear => [.flush]
  | .begin baud => [.openLine baud]
  | .finish => [.close]

/-- The row of the opcode map an instruction belongs to. -/
def Instr.operation : Instr → Operation
  | .push _ => .push
  | .rxsvc => .rxsvc
  | .read => .read
  | .peek => .peek
  | .avail => .avail
  | .flush => .flush
  | .poll => .poll
  | .openLine _ => .openLine
  | .close => .close
  | .write _ => .write

/-- R77: the port column of the opcode map. -/
def Operation.port : Operation → Port
  | .push => .producer
  | .rxsvc => .producer
  | .read => .consumer
  | .peek => .consumer
  | .avail => .consumer
  | .flush => .consumer
  | .poll => .consumer
  | .openLine => .consumer
  | .close => .consumer
  | .write => .consumer

/-- R77: the format column of the opcode map. -/
def Operation.format : Operation → Format
  | .push => .b
  | .rxsvc => .z
  | .read => .z
  | .peek => .z
  | .avail => .z
  | .flush => .z
  | .poll => .z
  | .openLine => .o
  | .close => .z
  | .write => .b

/-- R77: the port an instruction is issued on. -/
def Instr.port (i : Instr) : Port := i.operation.port

end Sys2Proof
end

