-- ==== Sys2Proof/WellFormed.lean ====
section
/-! DEFINITION. When a request word is well formed, check by check, written from R73, R74, R77 and R78 apart from the decoder. An `Instr` carries its operands at their exact widths, so every `Instr` is well formed; what can be ill formed is a raw request. -/

namespace Sys2Proof

/-- R77: the operation codes a row of the opcode map defines. -/
def definedOpcodes : List (BitVec 4) := [0x1, 0x2, 0x3, 0x4, 0x5, 0x6, 0x7, 0x8, 0x9, 0xA]

/-- R78: a word whose operation code is 0x0 or 0xB to 0xF spells no operation. -/
def Request.opcodeDefined (r : Request) : Bool := definedOpcodes.contains (r.req.extractLsb' 12 4)

/-- R73: the field `rsv` must be 0000. -/
def Request.reservedZero (r : Request) : Bool := r.req.extractLsb' 8 4 == 0#4

/-- R73, R74: `imm8` must be 0x00 but in format B, the format of the operation codes 0x1 and 0xA alone. -/
def Request.operandAllowed (r : Request) : Bool :=
  (r.req.extractLsb' 12 4 == 0x1#4) || (r.req.extractLsb' 12 4 == 0xA#4) || (r.req.extractLsb' 0 8 == 0#8)

/-- R72: the producer port takes PUSH (0x1) and RXSVC (0x2); the consumer port takes the rest. -/
def Request.portFits (port : Port) (r : Request) : Bool :=
  ((r.req.extractLsb' 12 4 == 0x1#4) || (r.req.extractLsb' 12 4 == 0x2#4)) == decide (port = .producer)

/-- R78: the request spells an operation of this port. -/
def Request.wellFormed (port : Port) (r : Request) : Bool :=
  r.opcodeDefined && r.reservedZero && r.operandAllowed && r.portFits port

end Sys2Proof
end

