-- ==== Sys2Proof/Decode.lean ====
section
/-! DEFINITION. Decoding of a request `(port, REQ, ARG)`, total and in the order of R79, and the encoder, from the fields of R73 and the opcode map of R77. A request word is a parallel word that is never split into bytes (R55), so the decoder takes words (log 17). -/

namespace Sys2Proof

/-- R73: `op = REQ[15:12]`. -/
def Request.op (r : Request) : BitVec 4 := r.req.extractLsb' 12 4

/-- R73: `rsv = REQ[11:8]`. -/
def Request.rsv (r : Request) : BitVec 4 := r.req.extractLsb' 8 4

/-- R73, R75: `imm8 = REQ[7:0]`, the byte operand of format B, used as is. -/
def Request.imm8 (r : Request) : Byte := r.req.extractLsb' 0 8

/-- R77: the operation code column of the opcode map. -/
def Operation.code : Operation → BitVec 4
  | .push => 0x1
  | .rxsvc => 0x2
  | .read => 0x3
  | .peek => 0x4
  | .avail => 0x5
  | .flush => 0x6
  | .poll => 0x7
  | .openLine => 0x8
  | .close => 0x9
  | .write => 0xA

/-- R77: the operation a code spells; none for the reserved codes 0x0 and 0xB to 0xF. -/
def Operation.ofCode (op : BitVec 4) : Option Operation :=
  match op.toNat with
  | 1 => some .push
  | 2 => some .rxsvc
  | 3 => some .read
  | 4 => some .peek
  | 5 => some .avail
  | 6 => some .flush
  | 7 => some .poll
  | 8 => some .openLine
  | 9 => some .close
  | 10 => some .write
  | _ => none

/-- R75: the instruction with its operand: `REQ[7:0]` in format B, `ARG[31:0]` in format O. -/
def Operation.assemble (o : Operation) (r : Request) : Instr :=
  match o with
  | .push => .push r.imm8
  | .rxsvc => .rxsvc
  | .read => .read
  | .peek => .peek
  | .avail => .avail
  | .flush => .flush
  | .poll => .poll
  | .openLine => .openLine r.arg
  | .close => .close
  | .write => .write r.imm8

/-- R79: the checks in their order; the first that fails names the fault. -/
def decode (port : Port) (r : Request) : Except FaultCode Instr :=
  match Operation.ofCode r.op with
  | none => .error .illegalOpcode
  | some o =>
    if r.rsv ≠ 0#4 then .error .reservedBits
    else if o.format ≠ .b ∧ r.imm8 ≠ 0#8 then .error .reservedBits
    else if o.port ≠ port then .error .wrongPort
    else .ok (o.assemble r)

/-- R74: the field `REQ[7:0]` of an instruction: its byte in format B, zero in formats Z and O. -/
def Instr.imm8 : Instr → Byte
  | .push b => b
  | .write b => b
  | .rxsvc => 0
  | .read => 0
  | .peek => 0
  | .avail => 0
  | .flush => 0
  | .poll => 0
  | .openLine _ => 0
  | .close => 0

/-- R74: the word `ARG` of an instruction; only OPEN has one, and zero stands where there is none. -/
def Instr.argWord : Instr → ArgWord
  | .openLine baud => baud
  | .push _ => 0
  | .rxsvc => 0
  | .read => 0
  | .peek => 0
  | .avail => 0
  | .flush => 0
  | .poll => 0
  | .close => 0
  | .write _ => 0

/-- R73, R74: the words of an instruction, `REQ` the fields `op`, `rsv` (zero) and `imm8` from the top down. -/
def encode (i : Instr) : Request :=
  { req := i.operation.code ++ 0#4 ++ i.imm8, arg := i.argWord }

/-- R76: the word `ARG` is present exactly where `op = 0x8`. -/
def Request.presentArg (r : Request) : Option ArgWord := if r.op = 0x8#4 then some r.arg else none

/-- R84: the port of a request that names none: the operation's own. A word that spells no operation is put on the
consumer port, the one programs use. -/
def Request.ownPort (r : Request) : Port :=
  match Operation.ofCode r.op with
  | some o => o.port
  | none => .consumer

/-- The request whose bits are `w`, numbered as spec/opcode_table.json numbers them: bits 15 to 0 are `REQ`, and the
bits above, which no row of the table counts, are `ARG`; every bit above `nbits` is zero (log 17). -/
def tableRequest (nbits w : Nat) : Request :=
  { req := BitVec.ofNat 16 (w % 2 ^ nbits), arg := BitVec.ofNat 32 ((w % 2 ^ nbits) / 2 ^ 16) }

/-- What the decoder reads from those bits on the request's own port. -/
def decodeTableWord (nbits w : Nat) : Option Instr :=
  match decode (tableRequest nbits w).ownPort (tableRequest nbits w) with
  | .ok i => some i
  | .error _ => none

end Sys2Proof
end

