-- ==== Sys2Proof/Config.lean ====
section
/-! DEFINITION. What the platform fixes for a run (00_scope.md section 4), the steps an agent can be chosen for, and the free values: constants without a body, of which nothing can be proved but their type. -/

namespace Sys2Proof

/-- R8: which receive strategy the platform binds, fixed for a whole run. -/
inductive RxMode where
  | interrupt
  | polled
  deriving DecidableEq, Repr

/-- The parameters of 00_scope.md section 4, all but `divisorOf`. They are data that every state carries and no
step writes, so a claim about all states quantifies over them (log 1). -/
structure Params where
  /-- R5: `N - 1`, so that every value of this type is a capacity with 1 <= N <= 65536. -/
  slotsLess1 : Fin 65536
  /-- R8: `RX_MODE`. -/
  rxMode : RxMode
  /-- R9: `F_CLK`. -/
  fClk : Nat
  /-- R9: `LEGACY_BAUD`. -/
  legacyBaud : Nat
  /-- R9: `LEGACY_FCLK`. -/
  legacyFclk : Nat
  /-- R10: `CLOSE_CLEARS_RX`. -/
  closeClearsRx : Bool
  deriving DecidableEq, Repr

/-- R5: `N`, the number of storage slots. -/
def Params.n (p : Params) : Nat := p.slotsLess1.val + 1

/-- R6: `W = max(1, ceil(log2 N))`; for N >= 2 the rounded-up logarithm is `log2 (N - 1) + 1`. -/
def Params.cursorWidth (p : Params) : Nat :=
  if p.n = 1 then 1 else Nat.log2 (p.n - 1) + 1

/-- R9: `F_CLK` is a positive integer, and so are the legacy pair. No rule of the controller needs it (log 23). -/
def Params.wellFormed (p : Params) : Bool :=
  decide (0 < p.fClk) && decide (0 < p.legacyBaud) && decide (0 < p.legacyFclk)

/-- R17, R124: the steps one of which is taken next. `foreground` is one micro-step of FG; `producer` offers PR the
head of `PR.queue`; `interrupt` delivers RXSVC (R127); the last two are the steps of ENV. `keepNew` is R102's free draw. -/
inductive AgentStep where
  | foreground
  | producer
  | interrupt
  | rxArrive (b : Byte) (keepNew : Bool)
  | txDrain
  deriving DecidableEq, Repr, Inhabited

/-- Free value (log 9). R9: "a total function from two positive integers and a bit to a natural number", of which the
machine assumes nothing but that it depends on its three arguments alone. -/
opaque Config.divisorOf (fclk baud : Nat) (dbl : Bool) : Nat

/-- Free value (log 6). R124: where the schedule of a state is exhausted, the `k`-th free choice of the next step. -/
opaque Config.freeStep (k : Nat) : AgentStep

end Sys2Proof
end

