-- ==== Sys2Proof/Machine/State.lean ====
section
/-! DEFINITION. The state of the controller and of its agents as plain data (10_state.md), the reasons a step can stop, and the state after reset (70_reset_and_hazards.md R138). -/

namespace Sys2Proof.Machine

/-- R80: what a completed request returns. `done` is "only completion"; `stored ok` is PUSH's success bit;
`optByte` is the `Option byte` of READ and PEEK (R15); `count` is AVAIL's count. -/
inductive Result where
  | done
  | stored (ok : Bool)
  | optByte (r : Option Byte)
  | count (n : Nat)
  deriving DecidableEq, Repr

/-- R45: one entry of `FG.log` or `PR.log`: a completed request and its result. -/
structure LogEntry where
  request : Instr
  result : Result
  deriving DecidableEq, Repr

/-- R121: what taking a fault records. `arg` is there for OPEN's operation code only, `fgPc` for a request of FG. -/
structure FaultRecord where
  code : FaultCode
  port : Port
  req : ReqWord
  arg : Option ArgWord
  fgPc : Option Nat
  deriving DecidableEq, Repr

/-- R43: FG's request in flight with the index of its NEXT micro-step (the digit of the constructor's name, as the
request's rule numbers them) and the locals read so far: `h` a copy of head, `t` a copy of tail, `v` a byte (for POLL
the byte taken from the receive register; for WRITE the operand). A local not yet read has no value (log 20). -/
inductive InFlight where
  | read2 (h : Nat)
  | read3 (h t : Nat)
  | read4 (h t : Nat) (v : Byte)
  | peek2 (h : Nat)
  | peek3 (h t : Nat)
  | avail2 (h : Nat)
  | flush2 (h : Nat)
  | poll2
  | poll3 (v : Byte)
  | poll4 (v : Byte) (h : Nat)
  | poll5 (v : Byte) (h t : Nat)
  | poll6 (v : Byte) (h t : Nat)
  | write1 (v : Byte)
  | write2 (v : Byte)
  deriving DecidableEq, Repr

/-- R18, R48: the storage as a list of (slot, byte) cells, slots strictly rising. A slot that no push has written is
not listed and reads as no value (R26, log 4). -/
abbrev Memory := List Host.Cell

/-- 10_state.md, summary table, and the parameters of 00_scope.md section 4. The last two fields are the model's own:
they say which agent steps next (log 6). -/
structure State where
  /-- 00_scope.md section 4: the parameters; no step writes them. -/
  params : Params
  /-- R18. -/
  storage : Memory
  /-- R19: "index of next slot to write". -/
  head : Nat
  /-- R20: "index of next slot to read". -/
  tail : Nat
  /-- R27. -/
  opened : Bool
  /-- R28: receive enable. -/
  rxen : Bool
  /-- R29: transmit enable. -/
  txen : Bool
  /-- R30: receive-interrupt enable. -/
  rxie : Bool
  /-- R32: the argument of the last OPEN. -/
  baud : ArgWord
  /-- R33: double-speed mode. -/
  dbl : Bool
  /-- R34: the value in the baud-rate registers. -/
  bauddiv : Nat
  /-- R35: receive register. -/
  rxdata : Byte
  /-- R36: "byte ready". -/
  rxready : Bool
  /-- R37: transmit register. -/
  txdata : Byte
  /-- R38: "transmit register empty". -/
  txempty : Bool
  /-- R39: the bytes sent on the line, oldest first. -/
  txline : List Byte
  /-- R42: `FG.prog`. -/
  fgProg : List Request
  /-- R42: `FG.pc`. -/
  fgPc : Nat
  /-- R43: `FG.cur`. -/
  fgCur : Option InFlight
  /-- R45: `FG.log`, oldest first. -/
  fgLog : List LogEntry
  /-- R45: `PR.log`, oldest first. -/
  prLog : List LogEntry
  /-- R44: `PR.queue`, next first. -/
  prQueue : List Request
  /-- R46: `S.fault`. -/
  fault : Option FaultRecord
  /-- Model's own: the steps chosen in advance, next first. -/
  schedule : List AgentStep
  /-- Model's own: how many choices were drawn from `Config.freeStep`. -/
  freeCount : Nat
  deriving DecidableEq, Repr

/-- Why the machine stops. -/
inductive Fault where
  /-- Raised by every step and every meaning once `S.fault` is set: R122, "no agent has a step". Taking the fault
  itself is a NEXT state, the one that sets `S.fault`. Safe: the spec says that nothing follows. -/
  | stopped (code : FaultCode)
  /-- Raised by a slot access outside [0, N), which the spec says cannot occur (R56, R22). Safe: no run reaches it, and a
  state with such a cursor stops instead of going on. -/
  | noSuchSlot (slot : Nat)
  deriving DecidableEq, Repr

/-- Why an instruction has no meaning. -/
inductive Refusal where
  /-- An arm of `exec` that is not modelled; no arm is. Safe: it stops. -/
  | notModelled (mnemonic : String)
  deriving DecidableEq, Repr

/-- One step's outcome. -/
abbrev Out := Host.Outcome State Fault Refusal

/-- R138: the elements that the spec leaves unspecified at reset (storage apart, see `Memory`). -/
structure PowerUp where
  baud : ArgWord
  dbl : Bool
  bauddiv : Nat
  rxdata : Byte
  txdata : Byte
  deriving DecidableEq, Repr

/-- R138: the state after reset, for any parameters, any values of the unspecified elements, any request program, any
producer queue and any schedule. -/
def State.resetWith (p : Params) (u : PowerUp) (prog queue : List Request) (sched : List AgentStep) : State where
  params := p
  storage := []
  head := 0
  tail := 0
  opened := false
  rxen := false
  txen := false
  rxie := false
  baud := u.baud
  dbl := u.dbl
  bauddiv := u.bauddiv
  rxdata := u.rxdata
  rxready := false
  txdata := u.txdata
  txempty := true
  txline := []
  fgProg := prog
  fgPc := 0
  fgCur := none
  fgLog := []
  prLog := []
  prQueue := queue
  fault := none
  schedule := sched
  freeCount := 0

/-- DESIGN CHOICE (log 2): the parameters of the one reset state the interface asks for; the spec gives none. -/
def resetParams : Params where
  slotsLess1 := 7
  rxMode := .interrupt
  fClk := 2
  legacyBaud := 1
  legacyFclk := 1
  closeClearsRx := false

/-- DESIGN CHOICE (log 3): zero for each element R138 leaves unspecified. -/
def zeroPowerUp : PowerUp where
  baud := 0
  dbl := false
  bauddiv := 0
  rxdata := 0
  txdata := 0

/-- R138, with the parameters and values of logs 2 and 3, nothing loaded and nothing scheduled (log 18). -/
def State.reset : State := State.resetWith resetParams zeroPowerUp [] [] []

end Sys2Proof.Machine
end

