-- ==== Sys2Proof/Machine/Operands.lean ====
section
/-! DEFINITION. The values requests compute and return: cursor arithmetic (R86), the buffer's conditions (R23, R24), the count (R93) and the wire forms of results (R81 to R83). Request operands themselves are assembled by the decoder (R75). -/

namespace Sys2Proof.Machine

/-- R86: the cursor after `c`, `(c + 1) mod N`. R88: every use takes the one N of the parameters. -/
def nextCursor (p : Params) (c : Nat) : Nat := (c + 1) % p.n

/-- R93: `(N + h - t) mod N`. -/
def countBetween (p : Params) (h t : Nat) : Nat := (p.n + h - t) % p.n

/-- R89: the full check of a push whose copies of the cursors are `h` and `t`. -/
def pushFull (p : Params) (h t : Nat) : Bool := decide (nextCursor p h = t)

/-- R23. -/
def State.isEmpty (s : State) : Bool := decide (s.head = s.tail)

/-- R24. -/
def State.isFull (s : State) : Bool := pushFull s.params s.head s.tail

/-- R25: the number of unread bytes. -/
def State.unreadCount (s : State) : Nat := countBetween s.params s.head s.tail

/-- R81: the bit `VALID`, which only the results of READ and PEEK have. -/
def Result.valid : Result → Option Bool
  | .optByte r => some r.isSome
  | .done => none
  | .stored _ => none
  | .count _ => none

/-- R81 to R83: the word `RES`; none where the request returns only completion (R80). -/
def Result.res : Result → Option ReqWord
  | .optByte (some b) => some (b.setWidth 16)
  | .optByte none => some 0xFFFF
  | .stored ok => some (if ok then 0x0001 else 0x0000)
  | .count n => some (BitVec.ofNat 16 n)
  | .done => none

end Sys2Proof.Machine
end

