-- ==== Sys2Proof/Machine/Ops.lean ====
section
/-! DEFINITION. The shared operations: the storage, taking a fault (R121), completing and holding a request (R14, R42), and the push all producers share (R89). The spec gives no return from a fault: it is never cleared (R122). -/

namespace Sys2Proof.Machine

/-- R52: `MemRead(i, 1)`; no value where no push has written the slot. -/
def Memory.read : Memory → Nat → Option Byte
  | [], _ => none
  | c :: m, i => if c.1 = i then some c.2 else Memory.read m i

/-- R52: `MemWrite(i, 1, b)`, keeping the slots strictly rising. -/
def Memory.write : Memory → Nat → Byte → Memory
  | [], i, b => [(i, b)]
  | c :: m, i, b =>
    if i < c.1 then (i, b) :: c :: m
    else if i = c.1 then (i, b) :: m
    else c :: Memory.write m i b

/-- The canonical form: slots strictly rising. (An unlisted slot reads as no value, so no entry can equal it.) -/
def Memory.wf : Memory → Bool
  | [] => true
  | c :: m =>
    match m with
    | [] => true
    | d :: _ => decide (c.1 < d.1) && Memory.wf m

/-- R122: once `S.fault` is set no agent has a step. -/
def unlessFaulted (s : State) (go : Out) : Out :=
  match s.fault with
  | some f => .fault (.stopped f.code)
  | none => go

/-- R121: the record of a fault: its code, the port, `REQ`, `ARG` for OPEN, and `FG.pc` when FG issued the request. -/
def faultRecord (code : FaultCode) (port : Port) (r : Request) (s : State) : FaultRecord where
  code := code
  port := port
  req := r.req
  arg := r.presentArg
  fgPc :=
    match port with
    | .consumer => some s.fgPc
    | .producer => none

/-- R121, R14: TAKING A FAULT. The record is set and the faulting request writes no other state. -/
def raise (code : FaultCode) (port : Port) (r : Request) (s : State) : Out :=
  .next { s with fault := some (faultRecord code port r s) }

/-- R123: an operation's own check fails, after decoding has passed. -/
def raiseOwn (code : FaultCode) (i : Instr) (s : State) : Out := raise code i.port (encode i) s

/-- R14: `hold`: no progress in this step; the same micro-step is taken again later. -/
def hold (s : State) : Out := .next s

/-- R72: a port takes its next request only after the previous one completed, so a request offered while another is in
flight waits (log 13). -/
def portBusy (s : State) : Out := hold s

/-- R43: FG's request goes on at its next micro-step. -/
def goTo (c : InFlight) (s : State) : State := { s with fgCur := some c }

/-- R42, R45: FG's request completes: its result is logged, `FG.pc` advances and nothing is in flight. -/
def fgComplete (i : Instr) (r : Result) (s : State) : State :=
  { s with fgPc := s.fgPc + 1, fgCur := none, fgLog := s.fgLog ++ [{ request := i, result := r }] }

/-- R45: a request of PR completes: its result is logged. -/
def prComplete (i : Instr) (r : Result) (s : State) : State :=
  { s with prLog := s.prLog ++ [{ request := i, result := r }] }

/-- R52, R89 micro-step 3: `MemWrite(i, 1, b)` in the storage. -/
def storeSlot (i : Nat) (b : Byte) (s : State) (k : State → Out) : Out :=
  if i < s.params.n then k { s with storage := Memory.write s.storage i b }
  else .fault (.noSuchSlot i)

/-- R52, R91 and R92 micro-step 3: `MemRead(i, 1)` for the request `req`; a slot no push has written raises
`UNWRITTEN_READ` (R26, R120). -/
def loadSlot (req : Instr) (i : Nat) (s : State) (k : Byte → Out) : Out :=
  if i < s.params.n then
    match Memory.read s.storage i with
    | some v => k v
    | none => raiseOwn .unwrittenRead req s
  else .fault (.noSuchSlot i)

/-- R89 micro-step 4: the new head, from the copy `h` of the old one. -/
def advanceHead (h : Nat) (s : State) : State := { s with head := nextCursor s.params h }

/-- R91 micro-step 4: the new tail, from the copy `t` of the old one. -/
def advanceTail (t : Nat) (s : State) : State := { s with tail := nextCursor s.params t }

/-- R89: `PushCore(b)`, its micro-steps run together, as a request of PR runs (R64). `k` gets the bit `ok`. -/
def pushCore (b : Byte) (s : State) (k : Bool → State → Out) : Out :=
  let h := s.head
  let t := s.tail
  if pushFull s.params h t then k false s
  else storeSlot h b s fun s' => k true (advanceHead h s')

end Sys2Proof.Machine
end

