-- ==== Sys2Proof/Machine/Flags.lean ====
section
/-! DEFINITION. The two status flags and everything that writes them (R36, R38, R40), and the condition of the receive interrupt (R126). There are no condition codes and no overflow flag (R40). -/

namespace Sys2Proof.Machine

/-- R126: the receive interrupt is requested exactly while this holds. -/
def interruptRequested (s : State) : Bool :=
  decide (s.params.rxMode = .interrupt) && s.rxie && s.rxready

/-- R103 micro-step 1, R54: the read of the receive register that clears "byte ready" with it; the byte read is the
`rxdata` of the state before. -/
def clearRxReady (s : State) : State := { s with rxready := false }

/-- R100: the receiver puts a byte in the receive register. -/
def receiveByte (b : Byte) (s : State) : State := { s with rxdata := b, rxready := true }

/-- R110 micro-step 2: one atomic write of the transmit register and its flag. -/
def depositTx (b : Byte) (s : State) : State := { s with txdata := b, txempty := false }

/-- R111: TX_DRAIN is enabled (`S.fault` apart). -/
def drainEnabled (s : State) : Bool := s.txen && !s.txempty

/-- R111: the transmitter takes the byte from the transmit register. -/
def takeTx (s : State) : State := { s with txline := s.txline ++ [s.txdata], txempty := true }

/-- R117: CLOSE writes "byte ready" only where `CLOSE_CLEARS_RX` is 1 (R10). -/
def closeRxReady (s : State) : Bool := if s.params.closeClearsRx then false else s.rxready

end Sys2Proof.Machine
end

