-- ==== Sys2Proof/Machine/Control.lean ====
section
/-! DEFINITION. OPEN and CLOSE (43_control.md), one micro-step each. -/

namespace Sys2Proof.Machine

/-- R116: `dbl <- not (baud == LEGACY_BAUD and F_CLK == LEGACY_FCLK)`. -/
def doubleSpeed (p : Params) (baud : ArgWord) : Bool :=
  !(decide (baud.toNat = p.legacyBaud) && decide (p.fClk = p.legacyFclk))

/-- R116: the baud configuration. -/
def configureBaud (baud : ArgWord) (s : State) : State :=
  { s with
    baud := baud
    dbl := doubleSpeed s.params baud
    bauddiv := Config.divisorOf s.params.fClk baud.toNat (doubleSpeed s.params baud) }

/-- R31, R116, R117: OPEN and CLOSE write all four bits to the same value. -/
def setEnables (on : Bool) (s : State) : State :=
  { s with rxen := on, txen := on, rxie := on, opened := on }

/-- R116. -/
def execOpen (baud : ArgWord) (s : State) : Out :=
  unlessFaulted s <|
    match s.fgCur with
    | none =>
      if baud = 0 then raiseOwn .baudZero (.openLine baud) s
      else .next (fgComplete (.openLine baud) .done (setEnables true (configureBaud baud s)))
    | some _ => portBusy s

/-- R117. -/
def execClose (s : State) : Out :=
  unlessFaulted s <|
    match s.fgCur with
    | none => .next (fgComplete .close .done { setEnables false s with rxready := closeRxReady s })
    | some _ => portBusy s

end Sys2Proof.Machine
end

