-- ==== Sys2Proof/Machine/Receive.lean ====
section
/-! DEFINITION. The receive path (41_receive.md): RX_ARRIVE, the receive service run whole by RXSVC and micro-step by micro-step by POLL. -/

namespace Sys2Proof.Machine

/-- R100 to R102: the line delivers byte `b`. Receiver disabled: the byte is lost. Register free: it takes the byte.
Overrun: `keepNew` says which byte survives, and "byte ready" stays 1. -/
def arriveByte (b : Byte) (keepNew : Bool) (s : State) : State :=
  if s.rxen then
    if s.rxready then
      if keepNew then { s with rxdata := b } else s
    else receiveByte b s
  else s

/-- R103: `ServiceRx()` run together, as a request of PR runs (R64); the bit `ok` is discarded (R104). -/
def serviceRx (s : State) (k : State → Out) : Out :=
  pushCore s.rxdata (clearRxReady s) fun _ s' => k s'

/-- R105: PR takes RXSVC only while the interrupt is requested; else the word holds. -/
def execRxsvc (s : State) : Out :=
  unlessFaulted s <|
    if interruptRequested s then serviceRx s fun s' => .next (prComplete .rxsvc .done s')
    else hold s

/-- R106: micro-step 1 reads "byte ready"; micro-steps 2 to 6 are R103. -/
def execPoll (s : State) : Out :=
  unlessFaulted s <|
    match s.fgCur with
    | none =>
      if s.params.rxMode = .interrupt then raiseOwn .pollInInterruptMode .poll s
      else if s.rxready then .next (goTo .poll2 s)
      else .next (fgComplete .poll .done s)
    | some .poll2 => .next (goTo (.poll3 s.rxdata) (clearRxReady s))
    | some (.poll3 v) => .next (goTo (.poll4 v s.head) s)
    | some (.poll4 v h) =>
      if pushFull s.params h s.tail then .next (fgComplete .poll .done s)
      else .next (goTo (.poll5 v h s.tail) s)
    | some (.poll5 v h t) => storeSlot h v s fun s' => .next (goTo (.poll6 v h t) s')
    | some (.poll6 _ h _) => .next (fgComplete .poll .done (advanceHead h s))
    | some _ => portBusy s

end Sys2Proof.Machine
end

