-- ==== Sys2Proof/Machine/RingBuffer.lean ====
section
/-! DEFINITION. The ring-buffer requests (40_ringbuffer.md): PUSH whole, as a request of PR (R64); READ, PEEK, AVAIL and FLUSH one micro-step a call (R59 to R62), the request in flight being `fgCur`. The first micro-step of a request stands where none is in flight (log 10); the last one completes it (log 11). -/

namespace Sys2Proof.Machine

/-- R90. -/
def execPush (b : Byte) (s : State) : Out :=
  unlessFaulted s <|
    if s.params.rxMode = .polled then raiseOwn .producerInPolledMode (.push b) s
    else pushCore b s fun ok s' => .next (prComplete (.push b) (.stored ok) s')

/-- R91. -/
def execRead (s : State) : Out :=
  unlessFaulted s <|
    match s.fgCur with
    | none => .next (goTo (.read2 s.head) s)
    | some (.read2 h) =>
      if h = s.tail then .next (fgComplete .read (.optByte none) s)
      else .next (goTo (.read3 h s.tail) s)
    | some (.read3 h t) => loadSlot .read t s fun v => .next (goTo (.read4 h t v) s)
    | some (.read4 _ t v) => .next (fgComplete .read (.optByte (some v)) (advanceTail t s))
    | some _ => portBusy s

/-- R92. -/
def execPeek (s : State) : Out :=
  unlessFaulted s <|
    match s.fgCur with
    | none => .next (goTo (.peek2 s.head) s)
    | some (.peek2 h) =>
      if h = s.tail then .next (fgComplete .peek (.optByte none) s)
      else .next (goTo (.peek3 h s.tail) s)
    | some (.peek3 _ t) => loadSlot .peek t s fun v => .next (fgComplete .peek (.optByte (some v)) s)
    | some _ => portBusy s

/-- R93. -/
def execAvail (s : State) : Out :=
  unlessFaulted s <|
    match s.fgCur with
    | none => .next (goTo (.avail2 s.head) s)
    | some (.avail2 h) => .next (fgComplete .avail (.count (countBetween s.params h s.tail)) s)
    | some _ => portBusy s

/-- R94, R145: two micro-steps, with requests of PR admitted between them. -/
def execFlush (s : State) : Out :=
  unlessFaulted s <|
    match s.fgCur with
    | none => .next (goTo (.flush2 s.head) s)
    | some (.flush2 h) => .next (fgComplete .flush .done { s with tail := h })
    | some _ => portBusy s

end Sys2Proof.Machine
end

