-- ==== Sys2Proof/Machine/Transmit.lean ====
section
/-! DEFINITION. The transmit path (42_transmit.md): WRITE, which waits for the transmit register, and TX_DRAIN. -/

namespace Sys2Proof.Machine

/-- R110 micro-step 1, the busy-wait: while the transmit register is not empty the micro-step is taken again (log 12). -/
def pollTxEmpty (b : Byte) (s : State) : State :=
  if s.txempty then goTo (.write2 b) s else goTo (.write1 b) s

/-- R110. A WRITE of another byte than the one in flight is another request, and waits (log 13). -/
def execWrite (b : Byte) (s : State) : Out :=
  unlessFaulted s <|
    match s.fgCur with
    | none =>
      if s.txen then .next (pollTxEmpty b s)
      else raiseOwn .txDisabledWrite (.write b) s
    | some (.write1 v) => if v = b then .next (pollTxEmpty b s) else portBusy s
    | some (.write2 v) =>
      if v = b then .next (fgComplete (.write b) .done (depositTx b s)) else portBusy s
    | some _ => portBusy s

/-- R111: TX_DRAIN has no step where it is not enabled. -/
def drainByte (s : State) : State := if drainEnabled s then takeTx s else s

end Sys2Proof.Machine
end

