-- ==== Sys2Proof/Machine/Dispatch.lean ====
section
/-! DEFINITION. One arm for each request. For a request of FG, `exec` takes its next micro-step; for a request of PR, the whole request (R64). -/

namespace Sys2Proof.Machine

def exec (i : Instr) (s : State) : Host.Outcome State Fault Refusal :=
  match i with
  | .push b => Sys2Proof.Machine.execPush b s
  | .rxsvc => Sys2Proof.Machine.execRxsvc s
  | .read => Sys2Proof.Machine.execRead s
  | .peek => Sys2Proof.Machine.execPeek s
  | .avail => Sys2Proof.Machine.execAvail s
  | .flush => Sys2Proof.Machine.execFlush s
  | .poll => Sys2Proof.Machine.execPoll s
  | .openLine baud => Sys2Proof.Machine.execOpen baud s
  | .close => Sys2Proof.Machine.execClose s
  | .write b => Sys2Proof.Machine.execWrite b s

end Sys2Proof.Machine
end

