-- ==== Sys2Proof/Machine/Agents.lean ====
section
/-! DEFINITION. The agents FG, PR and ENV (R17): which one steps next (R124), how a request reaches a port and is decoded (R79), and what each agent's step does. -/

namespace Sys2Proof.Machine

/-- R43: the request a micro-step belongs to. -/
def InFlight.request : InFlight → Instr
  | .read2 _ => .read
  | .read3 _ _ => .read
  | .read4 _ _ _ => .read
  | .peek2 _ => .peek
  | .peek3 _ _ => .peek
  | .avail2 _ => .avail
  | .flush2 _ => .flush
  | .poll2 => .poll
  | .poll3 _ => .poll
  | .poll4 _ _ => .poll
  | .poll5 _ _ _ => .poll
  | .poll6 _ _ _ => .poll
  | .write1 v => .write v
  | .write2 v => .write v

/-- R124: the next step, from the schedule, and from the free value where the schedule is exhausted. -/
def nextAgent (s : State) : AgentStep :=
  match s.schedule with
  | c :: _ => c
  | [] => Config.freeStep s.freeCount

/-- The state with that choice used up. -/
def consumeChoice (s : State) : State :=
  match s.schedule with
  | _ :: rest => { s with schedule := rest }
  | [] => { s with freeCount := s.freeCount + 1 }

/-- R42: FG goes on with its request in flight, or issues `FG.prog[FG.pc]`, or has no step left (log 7). -/
def foregroundStep (s : State) : Out :=
  match s.fgCur with
  | some c => exec c.request s
  | none =>
    match s.fgProg[s.fgPc]? with
    | none => hold s
    | some r =>
      match decode .consumer r with
      | .error code => raise code .consumer r s
      | .ok i => exec i s

/-- R105: the only request of PR that can hold is RXSVC, while the interrupt is not requested. -/
def producerHolds (i : Instr) (s : State) : Bool := decide (i = .rxsvc) && !interruptRequested s

/-- R44: a request that completed leaves `PR.queue`; one that faulted writes no state but `S.fault` (R121, log 14). -/
def dequeue (rest : List Request) (o : Out) : Out :=
  match o with
  | .next s => .next (if s.fault.isSome then s else { s with prQueue := rest })
  | .fault r => .fault r
  | .refused r => .refused r

/-- R44, R64: PR takes the head of `PR.queue`, which runs to completion. -/
def producerStep (s : State) : Out :=
  match s.prQueue with
  | [] => hold s
  | r :: rest =>
    match decode .producer r with
    | .error code => raise code .producer r s
    | .ok i => if producerHolds i s then hold s else dequeue rest (exec i s)

/-- R127, R128: the delivery of the receive interrupt: RXSVC runs, with nothing saved before it. -/
def interruptStep (s : State) : Out := exec .rxsvc s

/-- R17: the step of the chosen agent. -/
def agentStep (a : AgentStep) (s : State) : Out :=
  match a with
  | .foreground => foregroundStep s
  | .producer => producerStep s
  | .interrupt => interruptStep s
  | .rxArrive b keepNew => .next (arriveByte b keepNew s)
  | .txDrain => .next (drainByte s)

/-- One step of the machine: R57, R122, R124. -/
def takeStep (s : State) : Out := unlessFaulted s (agentStep (nextAgent s) (consumeChoice s))

/-- `l` with `r` as its entry number `k`, padded with `r` where `l` is too short. -/
def placeAt (l : List Request) (k : Nat) (r : Request) : List Request :=
  l.take k ++ List.replicate (k - l.length) r ++ r :: l.drop (k + 1)

/-- The state whose very next step offers `r` on its own port: for the consumer port FG's next request with nothing in
flight, for the producer port the head of `PR.queue` (log 18). -/
def placeRequest (r : Request) (s : State) : State :=
  match r.ownPort with
  | .consumer =>
    { s with
      fgProg := placeAt s.fgProg s.fgPc r
      fgCur := none
      fault := none
      schedule := .foreground :: s.schedule }
  | .producer =>
    { s with
      prQueue := r :: s.prQueue
      fault := none
      schedule := .producer :: s.schedule }

end Sys2Proof.Machine
end

