-- ==== Sys2Proof/Machine/Step.lean ====
section
/-! DEFINITION. One step, and the state whose next step runs a given request. -/

namespace Sys2Proof.Machine

/-- R57: one step of one agent. -/
def step (s : State) : Host.Outcome State Fault Refusal := takeStep s

/-- The request with the bits `w` placed where its port takes its next request (log 18). -/
def State.withFetchWord (s : State) (nbits w : Nat) : State := placeRequest (tableRequest nbits w) s

end Sys2Proof.Machine
end

