-- ==== Sys2Proof/Machine/Assembly.lean ====
section
/-! DEFINITION. The assembly syntax of R84 and the pseudo-instructions of R85: a line of text to the requests it stands for. The spellings R84 leaves open are named in log 22. -/

namespace Sys2Proof.Machine

/-- The words of a line, cut at spaces and at the commas of R85. `cur` is the word so far, reversed. -/
def splitWords : List Char → List Char → List (List Char)
  | cur, [] => if cur.isEmpty then [] else [cur.reverse]
  | cur, c :: cs =>
    if c = ' ' ∨ c = ',' then
      if cur.isEmpty then splitWords [] cs else cur.reverse :: splitWords [] cs
    else splitWords (c :: cur) cs

/-- A decimal digit. -/
def decimalDigit (c : Char) : Option Nat :=
  if '0' ≤ c ∧ c ≤ '9' then some (c.toNat - '0'.toNat) else none

/-- A hexadecimal digit, in either case. -/
def hexDigit (c : Char) : Option Nat :=
  if '0' ≤ c ∧ c ≤ '9' then some (c.toNat - '0'.toNat)
  else if 'a' ≤ c ∧ c ≤ 'f' then some (c.toNat - 'a'.toNat + 10)
  else if 'A' ≤ c ∧ c ≤ 'F' then some (c.toNat - 'A'.toNat + 10)
  else none

/-- The digits after a number `acc`. -/
def decimalFrom : Nat → List Char → Option Nat
  | acc, [] => some acc
  | acc, c :: cs =>
    match decimalDigit c with
    | some d => decimalFrom (10 * acc + d) cs
    | none => none

/-- A decimal number of at least one digit, at most `top`. -/
def decimalUpTo (top : Nat) (w : List Char) : Option Nat :=
  match w with
  | [] => none
  | c :: cs =>
    match decimalFrom 0 (c :: cs) with
    | some n => if n ≤ top then some n else none
    | none => none

/-- R84: a byte operand, decimal 0 to 255 or hexadecimal `0x00` to `0xFF`. -/
def byteOperand (w : List Char) : Option Byte :=
  match w with
  | ['0', 'x', a, b] =>
    match hexDigit a, hexDigit b with
    | some x, some y => some (BitVec.ofNat 8 (16 * x + y))
    | _, _ => none
  | _ => (decimalUpTo 255 w).map (BitVec.ofNat 8)

/-- R84: a baud operand, decimal 0 to 4294967295. -/
def baudOperand (w : List Char) : Option ArgWord :=
  (decimalUpTo 4294967295 w).map (BitVec.ofNat 32)

/-- The byte operands of WRITES, in order. -/
def byteOperands : List (List Char) → Option (List Byte)
  | [] => some []
  | w :: ws =>
    match byteOperand w, byteOperands ws with
    | some b, some bs => some (b :: bs)
    | _, _ => none

/-- R84, R85: the instructions a line without its port stands for. -/
def assembleWords (ws : List (List Char)) : Option (List Instr) :=
  match ws with
  | [] => none
  | m :: ops =>
    if m = ['W', 'R', 'I', 'T', 'E', 'S'] then (byteOperands ops).map fun bs => (Pseudo.writes bs).expand
    else
      match ops with
      | [] =>
        if m = ['R', 'X', 'S', 'V', 'C'] then some [.rxsvc]
        else if m = ['R', 'E', 'A', 'D'] then some [.read]
        else if m = ['P', 'E', 'E', 'K'] then some [.peek]
        else if m = ['A', 'V', 'A', 'I', 'L'] then some [.avail]
        else if m = ['F', 'L', 'U', 'S', 'H'] then some [.flush]
        else if m = ['P', 'O', 'L', 'L'] then some [.poll]
        else if m = ['C', 'L', 'O', 'S', 'E'] then some [.close]
        else if m = ['P', 'O', 'P'] then some Pseudo.pop.expand
        else if m = ['C', 'L', 'E', 'A', 'R'] then some Pseudo.clear.expand
        else if m = ['E', 'N', 'D'] then some Pseudo.finish.expand
        else none
      | [w] =>
        if m = ['P', 'U', 'S', 'H'] then (byteOperand w).map fun b => [.push b]
        else if m = ['W', 'R', 'I', 'T', 'E'] then (byteOperand w).map fun b => [.write b]
        else if m = ['O', 'P', 'E', 'N'] then (baudOperand w).map fun b => [.openLine b]
        else if m = ['B', 'E', 'G', 'I', 'N'] then (baudOperand w).map fun b => (Pseudo.begin b).expand
        else none
      | _ :: _ :: _ => none

/-- R84: a line with an optional port before it, `C:` or `P:`; without one the port is each operation's own. -/
def assembleLine (line : List Char) : Option (List (Port × Request)) :=
  match splitWords [] line with
  | [] => none
  | w :: ws =>
    if w = ['C', ':'] then (assembleWords ws).map fun is => is.map fun i => (.consumer, encode i)
    else if w = ['P', ':'] then (assembleWords ws).map fun is => is.map fun i => (.producer, encode i)
    else (assembleWords (w :: ws)).map fun is => is.map fun i => (i.port, encode i)

end Sys2Proof.Machine
end

