-- ==== Sys2Proof/Safety.lean ====
section
/-! DEFINITION. The terms claims are stated in: the unread bytes (R25), the invariant of a run, the end of a run and its observation (R150), one request run alone, runs and their two named fairness premises (R149). -/

namespace Sys2Proof.Machine

/-- R25: `k` slots from `t` on, indices mod N. -/
def slotsFrom (p : Params) (t : Nat) : Nat → List Nat
  | 0 => []
  | k + 1 => t :: slotsFrom p (nextCursor p t) k

/-- R25: the bytes in `k` slots from `t` on, oldest first. -/
def bytesFrom (p : Params) (m : Memory) (t k : Nat) : List Byte := (slotsFrom p t k).filterMap (Memory.read m)

/-- R25: the unread bytes, oldest first. -/
def unreadBytes (s : State) : List Byte := bytesFrom s.params s.storage s.tail s.unreadCount

/-- R26: every slot in the unread range has been written. -/
def unreadWritten (s : State) : Prop :=
  ∀ i ∈ slotsFrom s.params s.tail s.unreadCount, (Memory.read s.storage i).isSome = true

/-- R66, R67: what the locals of a READ, PEEK, AVAIL or FLUSH in flight are worth: `h` is a head of no later than now. -/
def headCopyOk (s : State) (h : Nat) : Prop :=
  h < s.params.n ∧ countBetween s.params h s.tail ≤ s.unreadCount

/-- What holds of FG's request in flight: its locals are copies that are still good (R66), POLL runs in POLLED mode only
(R106), and WRITE got past its checks (R110). -/
def inFlightOk (s : State) : Prop :=
  match s.fgCur with
  | none => True
  | some (.read2 h) => headCopyOk s h
  | some (.read3 h t) => headCopyOk s h ∧ t = s.tail ∧ h ≠ t
  | some (.read4 h t v) => headCopyOk s h ∧ t = s.tail ∧ h ≠ t ∧ Memory.read s.storage t = some v
  | some (.peek2 h) => headCopyOk s h
  | some (.peek3 h t) => headCopyOk s h ∧ t = s.tail ∧ h ≠ t
  | some (.avail2 h) => headCopyOk s h
  | some (.flush2 h) => headCopyOk s h
  | some .poll2 => s.params.rxMode = .polled ∧ s.rxready = true
  | some (.poll3 _) => s.params.rxMode = .polled
  | some (.poll4 _ h) => s.params.rxMode = .polled ∧ h = s.head
  | some (.poll5 _ h t) => s.params.rxMode = .polled ∧ h = s.head ∧ t = s.tail ∧ nextCursor s.params h ≠ t
  | some (.poll6 v h t) =>
    s.params.rxMode = .polled ∧ h = s.head ∧ t = s.tail ∧ nextCursor s.params h ≠ t ∧ Memory.read s.storage h = some v
  | some (.write1 _) => s.txen = true
  | some (.write2 _) => s.txen = true ∧ s.txempty = true

/-- R42, R43: a request in flight is the one `FG.prog[FG.pc]` spells. -/
def inFlightIssued (s : State) : Prop :=
  ∀ c, s.fgCur = some c → ∃ r, s.fgProg[s.fgPc]? = some r ∧ decode .consumer r = .ok c.request

/-- The bytes of the completed WRITEs of a log, in order. -/
def writtenBytes (log : List LogEntry) : List Byte :=
  log.filterMap fun e =>
    match e.request with
    | .write b => some b
    | _ => none

/-- R113, R114: the bytes on the line and then the one still in the transmit register. -/
def transmitted (s : State) : List Byte := s.txline ++ if s.txempty then [] else [s.txdata]

/-- The invariant of a run from reset. -/
structure Inv (s : State) : Prop where
  /-- The storage keeps its canonical form. -/
  storage_wf : Memory.wf s.storage = true
  /-- R50: no slot outside [0, N) is ever written. -/
  storage_slots : ∀ c ∈ s.storage, c.1 < s.params.n
  /-- R22. -/
  head_lt : s.head < s.params.n
  /-- R22. -/
  tail_lt : s.tail < s.params.n
  /-- R31. -/
  enables : s.opened = s.rxen ∧ s.rxen = s.txen ∧ s.txen = s.rxie
  /-- R26. -/
  written : unreadWritten s
  /-- R42. -/
  pc_le : s.fgPc ≤ s.fgProg.length
  /-- R43. -/
  in_flight : inFlightOk s
  /-- R42, R43. -/
  issued : inFlightIssued s
  /-- R114. -/
  transmit : transmitted s = writtenBytes s.fgLog

/-- R150: a run is complete. PR has no state in flight (R44), so it is idle between steps. -/
def State.complete (s : State) : Bool :=
  decide (s.fault = none) && decide (s.fgPc = s.fgProg.length) && decide (s.fgCur = none) && decide (s.prQueue = [])

/-- R150: what is observed of a complete run. -/
structure Observation where
  fgLog : List LogEntry
  prLog : List LogEntry
  txline : List Byte
  head : Nat
  tail : Nat
  unread : List Byte
  deriving DecidableEq, Repr

/-- R150. -/
def State.observation (s : State) : Observation where
  fgLog := s.fgLog
  prLog := s.prLog
  txline := s.txline
  head := s.head
  tail := s.tail
  unread := unreadBytes s

/-- R112: FG waits in a WRITE. -/
def State.writeWaits (s : State) : Bool :=
  match s.fgCur with
  | some (.write1 _) => !s.txempty
  | _ => false

/-- `k` micro-steps of the request `i` in a row, with no step of another agent between them. -/
def execTimes (i : Instr) : Nat → State → Out
  | 0, s => .next s
  | k + 1, s =>
    match exec i s with
    | .next s' => execTimes i k s'
    | .fault r => .fault r
    | .refused r => .refused r

/-- PUSH of each byte in turn. -/
def pushEach : List Byte → State → Out
  | [], s => .next s
  | b :: bs, s =>
    match exec (.push b) s with
    | .next s' => pushEach bs s'
    | .fault r => .fault r
    | .refused r => .refused r

/-- What one step does to the queue of unread bytes. -/
inductive QueueEvent where
  /-- Nothing. -/
  | none
  /-- A successful push. -/
  | stored (b : Byte)
  /-- A READ that completes with `Some v`. -/
  | taken (v : Byte)
  /-- A FLUSH that removes the `k` oldest bytes, those unread at its micro-step 1 (R95). -/
  | discarded (k : Nat)
  deriving DecidableEq, Repr

/-- R95: the effect of an event on a FIFO queue, where it has one. -/
def QueueEvent.apply : QueueEvent → List Byte → Option (List Byte)
  | .none, q => some q
  | .stored b, q => some (q ++ [b])
  | .taken v, q =>
    match q with
    | [] => Option.none
    | w :: q' => if w = v then some q' else Option.none
  | .discarded k, q => if k ≤ q.length then some (q.drop k) else Option.none

/-- The event of the step from `s` to `s'`: a moved head is a push of the byte now in the slot it left; a new READ entry
of FG's log is a byte taken; a new FLUSH entry discards what its copy `h` of the head spans. -/
def queueEvent (s s' : State) : QueueEvent :=
  if s'.head ≠ s.head then
    match Memory.read s'.storage s.head with
    | some b => .stored b
    | Option.none => .none
  else
    match s.fgCur, s'.fgCur with
    | some (.read4 _ _ v), Option.none => .taken v
    | some (.flush2 h), Option.none => .discarded (countBetween s.params h s.tail)
    | _, _ => .none

/-- The events of `k` steps from `s`, oldest first, as far as the machine goes. -/
def queueEvents : Nat → State → List QueueEvent
  | 0, _ => []
  | k + 1, s =>
    match step s with
    | .next s' => queueEvent s s' :: queueEvents k s'
    | .fault _ => []
    | .refused _ => []

/-- Events applied to a queue one after the other. -/
def replay : List QueueEvent → List Byte → Option (List Byte)
  | [], q => some q
  | e :: es, q =>
    match e.apply q with
    | some q' => replay es q'
    | Option.none => Option.none

/-- An endless run in which `a k` is the agent of step number `k`: the machine's step from the state with that choice
next in its schedule. -/
def IsRun (a : Nat → AgentStep) (r : Nat → State) : Prop :=
  ∀ k, step { r k with schedule := [a k] } = .next (r (k + 1))

/-- FG is chosen again and again. Not assumed by the spec; a premise of claims about FG's progress. -/
def ForegroundFair (a : Nat → AgentStep) : Prop := ∀ k, ∃ j, k ≤ j ∧ a j = .foreground

/-- R112, R149: the named premise `TxDrainFair`: a TX_DRAIN that stays enabled is taken in the end. -/
def TxDrainFair (a : Nat → AgentStep) (r : Nat → State) : Prop :=
  ∀ k, ∃ j, k ≤ j ∧ (drainEnabled (r j) = false ∨ a j = .txDrain)

/-- R127, R149: the named premise `RxServiceFair`: an interrupt that stays requested is taken in the end. -/
def RxServiceFair (a : Nat → AgentStep) (r : Nat → State) : Prop :=
  ∀ k, ∃ j, k ≤ j ∧ (interruptRequested (r j) = false ∨ a j = .interrupt)

end Sys2Proof.Machine
end

