-- ==== Sys2Proof/Certificates/Slice0/Obligations.lean ====
section
/-! DEFINITION. The statements for the provers, each about the machine for every state, operand and parameter it names. `N` is `s.params.n`. -/

open Sys2Proof Sys2Proof.Machine

-- ==== encoding ====

/-- R73, R74, R77, R79: on its own port, the words of an instruction decode to it, at every value of its operand. -/
def Obligations.DecodingAnEncodedInstructionGivesItBack : Prop :=
  ∀ i : Instr, decode i.port (encode i) = .ok i

/-- R76, R77: the other way round: a request that decodes is the encoding of what it decodes to (`ARG` is looked at
for OPEN only), and it stands on that operation's port. -/
def Obligations.DecodedWordIsTheEncodingOfItsInstruction : Prop :=
  ∀ (port : Port) (r : Request) (i : Instr), decode port r = .ok i →
    i.port = port ∧ (encode i).req = r.req ∧ (r.req.extractLsb' 12 4 = 0x8#4 → encode i = r)

/-- R78, R79: which fault a request raises, by its fields, and that it raises none exactly where it is well formed. -/
def Obligations.DecodeFaultsByTheFieldsInOrder : Prop :=
  ∀ (port : Port) (r : Request),
    let op := (r.req.extractLsb' 12 4).toNat
    let rsv := r.req.extractLsb' 8 4
    let imm8 := r.req.extractLsb' 0 8
    let reserved := rsv ≠ 0 ∨ (op ≠ 0x1 ∧ op ≠ 0xA ∧ imm8 ≠ 0)
    let onProducer := op = 0x1 ∨ op = 0x2
    (decode port r = .error .illegalOpcode ↔ op = 0 ∨ 0xB ≤ op) ∧
    (decode port r = .error .reservedBits ↔ (1 ≤ op ∧ op ≤ 0xA) ∧ reserved) ∧
    (decode port r = .error .wrongPort ↔
      (1 ≤ op ∧ op ≤ 0xA) ∧ ¬ reserved ∧ ¬ (onProducer ↔ port = .producer)) ∧
    ((∃ i, decode port r = .ok i) ↔
      (1 ≤ op ∧ op ≤ 0xA) ∧ ¬ reserved ∧ (onProducer ↔ port = .producer)) ∧
    ((∃ i, decode port r = .ok i) ↔ r.wellFormed port = true)

/-- R77, R84 and the vectors DC1 to DC12 of 95_test_vectors.md: words written out from the opcode map. -/
def Obligations.WordsOfTheOpcodeMapDecode : Prop :=
  decode .producer ⟨0x1000, 0⟩ = .ok (.push 0x00) ∧
  decode .producer ⟨0x1041, 0⟩ = .ok (.push 0x41) ∧
  decode .producer ⟨0x2000, 0⟩ = .ok .rxsvc ∧
  decode .consumer ⟨0x3000, 0⟩ = .ok .read ∧
  decode .consumer ⟨0x4000, 0⟩ = .ok .peek ∧
  decode .consumer ⟨0x5000, 0⟩ = .ok .avail ∧
  decode .consumer ⟨0x6000, 0⟩ = .ok .flush ∧
  decode .consumer ⟨0x7000, 0⟩ = .ok .poll ∧
  decode .consumer ⟨0x8000, 0x0001C200⟩ = .ok (.openLine 115200) ∧
  decode .consumer ⟨0x9000, 0⟩ = .ok .close ∧
  decode .consumer ⟨0xA0FF, 0⟩ = .ok (.write 0xFF) ∧
  decode .consumer ⟨0x0000, 0⟩ = .error .illegalOpcode ∧
  decode .producer ⟨0xF123, 0⟩ = .error .illegalOpcode ∧
  decode .consumer ⟨0x3001, 0⟩ = .error .reservedBits ∧
  decode .producer ⟨0x1141, 0⟩ = .error .reservedBits ∧
  decode .consumer ⟨0x8001, 9600⟩ = .error .reservedBits ∧
  decode .consumer ⟨0x1041, 0⟩ = .error .wrongPort ∧
  decode .producer ⟨0x3000, 0⟩ = .error .wrongPort

/-- R81 to R83: the wire forms of results, that `RES` alone tells `None` from every `Some b`, and what bounds a count. -/
def Obligations.ResultWordsAsEncoded : Prop :=
  (∀ b : Byte, (Result.optByte (some b)).valid = some true ∧ (Result.optByte (some b)).res = some (0x00#8 ++ b)) ∧
  (Result.optByte none).valid = some false ∧ (Result.optByte none).res = some 0xFFFF ∧ (0xFFFF#16).toInt = -1 ∧
  (∀ b : Byte, (Result.optByte (some b)).res ≠ (Result.optByte none).res) ∧
  (Result.stored true).res = some 0x0001 ∧ (Result.stored false).res = some 0x0000 ∧
  (∀ (p : Params) (h t : Nat), h < p.n → t < p.n →
    ∃ w, (Result.count (countBetween p h t)).res = some w ∧ w.toNat = (p.n + h - t) % p.n ∧
      (p.n + h - t) % p.n ≤ p.n - 1 ∧ p.n - 1 ≤ 65535)

-- ==== the step ====

/-- R42, R79: FG issues `FG.prog[FG.pc]` when nothing is in flight: a well-formed request runs, a malformed one takes
its fault. `consumeChoice` only uses up the choice of the agent (log 6); the first micro-step stands in the step of the
issue (log 10); that the record of a malformed word of OPEN's code holds `ARG` is the model's choice (log 19). -/
def Obligations.StepIssuesTheForegroundRequest : Prop :=
  ∀ (s : State) (r : Request), s.fault = none → nextAgent s = .foreground → s.fgCur = none →
    s.fgProg[s.fgPc]? = some r →
    (∀ i, decode .consumer r = .ok i → step s = exec i (consumeChoice s)) ∧
    (∀ code, decode .consumer r = .error code →
      step s = .next { consumeChoice s with
        fault := some { code := code, port := .consumer, req := r.req, arg := r.presentArg, fgPc := some s.fgPc } })

/-- R43: FG goes on with its request in flight; R42: with its program at an end it has no step (the model's idle step,
log 7, uses up the choice and changes nothing else). -/
def Obligations.StepContinuesTheForegroundRequest : Prop :=
  ∀ s : State, s.fault = none → nextAgent s = .foreground →
    (∀ c, s.fgCur = some c → step s = exec c.request (consumeChoice s)) ∧
    (s.fgCur = none → s.fgPc = s.fgProg.length → step s = .next (consumeChoice s))

/-- R44, R79, R105: PR takes the head of `PR.queue`, which leaves the queue once it completed and stays where it took a
fault (log 14); a malformed word takes its fault, and that the record of one of OPEN's code holds `ARG` is the model's
choice (log 19); an RXSVC word holds while the interrupt is not requested. -/
def Obligations.StepRunsTheProducerRequest : Prop :=
  ∀ (s : State) (r : Request) (rest : List Request), s.fault = none → nextAgent s = .producer →
    s.prQueue = r :: rest →
    (∀ i t, decode .producer r = .ok i → (i = .rxsvc → interruptRequested s = true) →
      exec i (consumeChoice s) = .next t → t.fault = none → step s = .next { t with prQueue := rest }) ∧
    (∀ i t, decode .producer r = .ok i → (i = .rxsvc → interruptRequested s = true) →
      exec i (consumeChoice s) = .next t → t.fault ≠ none → step s = .next t) ∧
    (decode .producer r = .ok .rxsvc → interruptRequested s = false → step s = .next (consumeChoice s)) ∧
    (∀ code, decode .producer r = .error code →
      step s = .next { consumeChoice s with
        fault := some { code := code, port := .producer, req := r.req, arg := r.presentArg, fgPc := none } })

/-- R127, R128: the delivery of the interrupt runs RXSVC, with nothing saved or changed before it. -/
def Obligations.StepDeliversTheReceiveInterrupt : Prop :=
  ∀ s : State, s.fault = none → nextAgent s = .interrupt → step s = exec .rxsvc (consumeChoice s)

-- ==== reset ====

/-- R138: the state after reset, for any parameters, program, queue and values of the unspecified elements. -/
def Obligations.ResetLeavesTheStatedValues : Prop :=
  ∀ (p : Params) (u : PowerUp) (prog queue : List Request) (sched : List AgentStep),
    let s := State.resetWith p u prog queue sched
    s.head = 0 ∧ s.tail = 0 ∧ s.opened = false ∧ s.rxen = false ∧ s.txen = false ∧ s.rxie = false ∧
    s.rxready = false ∧ s.txempty = true ∧ s.txline = [] ∧ s.fgPc = 0 ∧ s.fgCur = none ∧ s.fgLog = [] ∧
    s.prLog = [] ∧ s.fault = none ∧ s.prQueue = queue ∧ s.fgProg = prog ∧ s.params = p ∧
    unreadBytes s = [] ∧ interruptRequested s = false

/-- R140: the invariant holds after reset. -/
def Obligations.ResetMeetsTheInvariant : Prop :=
  ∀ (p : Params) (u : PowerUp) (prog queue : List Request) (sched : List AgentStep),
    Inv (State.resetWith p u prog queue sched)

-- ==== faults ====

/-- R122: once `S.fault` is set no agent has a step, so it is never cleared: neither the machine nor any request goes
on; and such a state is no completed run. -/
def Obligations.FaultStopsEveryAgent : Prop :=
  ∀ (s : State) (f : FaultRecord), s.fault = some f →
    step s = .fault (.stopped f.code) ∧ (∀ i : Instr, exec i s = .fault (.stopped f.code)) ∧ s.complete = false

/-- R121: a request that takes a fault writes nothing but the record: its code, its port, its words, and `FG.pc` where
FG issued it. -/
def Obligations.FaultingRequestWritesOnlyTheRecord : Prop :=
  ∀ (i : Instr) (s t : State) (f : FaultRecord), exec i s = .next t → t.fault = some f →
    t = { s with fault := some f } ∧ f.port = i.port ∧ f.req = (encode i).req ∧
    f.arg = (match i with | .openLine baud => some baud | _ => none) ∧
    f.fgPc = (if i.port = .consumer then some s.fgPc else none)

/-- R120: the four checks of the operations themselves, each before the request's first micro-step. -/
def Obligations.OperationChecksTakeTheirFaults : Prop :=
  ∀ s : State, s.fault = none →
    (∀ b, s.params.rxMode = .polled →
      exec (.push b) s = .next { s with
        fault := some { code := .producerInPolledMode, port := .producer, req := 0x10#8 ++ b, arg := none, fgPc := none } }) ∧
    (s.fgCur = none → s.params.rxMode = .interrupt →
      exec .poll s = .next { s with
        fault := some { code := .pollInInterruptMode, port := .consumer, req := 0x7000, arg := none, fgPc := some s.fgPc } }) ∧
    (∀ b, s.fgCur = none → s.txen = false →
      exec (.write b) s = .next { s with
        fault := some { code := .txDisabledWrite, port := .consumer, req := 0xA0#8 ++ b, arg := none, fgPc := some s.fgPc } }) ∧
    (s.fgCur = none →
      exec (.openLine 0) s = .next { s with
        fault := some { code := .baudZero, port := .consumer, req := 0x8000, arg := some 0, fgPc := some s.fgPc } })

/-- R26, R120, R56: from a state of the invariant no step takes `UNWRITTEN_READ` and none reaches a slot outside [0, N). -/
def Obligations.UnwrittenReadAndMissingSlotAreUnreachable : Prop :=
  ∀ s : State, Inv s →
    (∀ k, step s ≠ .fault (.noSuchSlot k)) ∧
    ∀ (s' : State) (f : FaultRecord), step s = .next s' → s'.fault = some f → f.code ≠ .unwrittenRead

/-- R26, R120: READ and PEEK of a slot that no push has written take the fault (no run reaches it). -/
def Obligations.ReadingAnUnwrittenSlotTakesTheFault : Prop :=
  ∀ (s : State) (h t : Nat), s.fault = none → t < s.params.n → Memory.read s.storage t = none →
    (s.fgCur = some (.read3 h t) → exec .read s = .next { s with
        fault := some { code := .unwrittenRead, port := .consumer, req := 0x3000, arg := none, fgPc := some s.fgPc } }) ∧
    (s.fgCur = some (.peek3 h t) → exec .peek s = .next { s with
        fault := some { code := .unwrittenRead, port := .consumer, req := 0x4000, arg := none, fgPc := some s.fgPc } })

-- ==== ring buffer: one request, or one micro-step of it ====

/-- R89, R90: PUSH stores at the write cursor and advances it, or drops the byte and changes nothing but the log. -/
def Obligations.PushStoresOrDropsTheByte : Prop :=
  ∀ (b : Byte) (s : State), s.fault = none → s.params.rxMode = .interrupt → s.head < s.params.n →
    exec (.push b) s = .next
      (if (s.head + 1) % s.params.n = s.tail then
        { s with prLog := s.prLog ++ [⟨.push b, .stored false⟩] }
      else
        { s with
          storage := Memory.write s.storage s.head b
          head := (s.head + 1) % s.params.n
          prLog := s.prLog ++ [⟨.push b, .stored true⟩] })

/-- R59, R91: the micro-steps of READ in order; until its slot has been read, no request of PR writes that slot. -/
def Obligations.ReadMicroStepsInOrder : Prop :=
  ∀ s : State, s.fault = none →
    (s.fgCur = none → exec .read s = .next { s with fgCur := some (.read2 s.head) }) ∧
    (∀ h, s.fgCur = some (.read2 h) → h ≠ s.tail →
      exec .read s = .next { s with fgCur := some (.read3 h s.tail) }) ∧
    (∀ h, s.fgCur = some (.read2 h) → h = s.tail →
      exec .read s = .next { s with
        fgPc := s.fgPc + 1, fgCur := none, fgLog := s.fgLog ++ [⟨.read, .optByte none⟩] }) ∧
    (∀ h t v, s.fgCur = some (.read3 h t) → t < s.params.n → Memory.read s.storage t = some v →
      exec .read s = .next { s with fgCur := some (.read4 h t v) }) ∧
    (∀ h t v, s.fgCur = some (.read4 h t v) →
      exec .read s = .next { s with
        tail := (t + 1) % s.params.n
        fgPc := s.fgPc + 1, fgCur := none, fgLog := s.fgLog ++ [⟨.read, .optByte (some v)⟩] }) ∧
    (∀ h t i u, Inv s → s.fgCur = some (.read3 h t) → i.port = .producer → exec i s = .next u →
      Memory.read u.storage t = Memory.read s.storage t)

/-- R60, R92: the micro-steps of PEEK in order; it writes nothing of the controller. -/
def Obligations.PeekMicroStepsInOrder : Prop :=
  ∀ s : State, s.fault = none →
    (s.fgCur = none → exec .peek s = .next { s with fgCur := some (.peek2 s.head) }) ∧
    (∀ h, s.fgCur = some (.peek2 h) → h ≠ s.tail →
      exec .peek s = .next { s with fgCur := some (.peek3 h s.tail) }) ∧
    (∀ h, s.fgCur = some (.peek2 h) → h = s.tail →
      exec .peek s = .next { s with
        fgPc := s.fgPc + 1, fgCur := none, fgLog := s.fgLog ++ [⟨.peek, .optByte none⟩] }) ∧
    (∀ h t v, s.fgCur = some (.peek3 h t) → t < s.params.n → Memory.read s.storage t = some v →
      exec .peek s = .next { s with
        fgPc := s.fgPc + 1, fgCur := none, fgLog := s.fgLog ++ [⟨.peek, .optByte (some v)⟩] })

/-- R61, R93: the micro-steps of AVAIL in order; it writes nothing of the controller. -/
def Obligations.AvailMicroStepsInOrder : Prop :=
  ∀ s : State, s.fault = none →
    (s.fgCur = none → exec .avail s = .next { s with fgCur := some (.avail2 s.head) }) ∧
    (∀ h, s.fgCur = some (.avail2 h) →
      exec .avail s = .next { s with
        fgPc := s.fgPc + 1, fgCur := none
        fgLog := s.fgLog ++ [⟨.avail, .count ((s.params.n + h - s.tail) % s.params.n)⟩] })

/-- R62, R94: the micro-steps of FLUSH in order; it touches no slot. -/
def Obligations.FlushMicroStepsInOrder : Prop :=
  ∀ s : State, s.fault = none →
    (s.fgCur = none → exec .flush s = .next { s with fgCur := some (.flush2 s.head) }) ∧
    (∀ h, s.fgCur = some (.flush2 h) →
      exec .flush s = .next { s with
        tail := h, fgPc := s.fgPc + 1, fgCur := none, fgLog := s.fgLog ++ [⟨.flush, .done⟩] })

/-- R72: a request offered to the consumer port while another one is in flight waits. -/
def Obligations.BusyPortHoldsAnotherRequest : Prop :=
  ∀ (i : Instr) (c : InFlight) (s : State), s.fault = none → i.port = .consumer → s.fgCur = some c →
    c.request ≠ i → exec i s = .next s

-- ==== ring buffer: whole requests and laws ====

/-- R23, R24, R25: what the cursors say of the unread bytes. -/
def Obligations.CursorsTellEmptyFullAndCount : Prop :=
  ∀ s : State, Inv s →
    (unreadBytes s = [] ↔ s.head = s.tail) ∧
    ((unreadBytes s).length = s.params.n - 1 ↔ (s.head + 1) % s.params.n = s.tail) ∧
    (unreadBytes s).length = (s.params.n + s.head - s.tail) % s.params.n ∧
    (unreadBytes s).length ≤ s.params.n - 1 ∧
    (∀ j, j < (unreadBytes s).length →
      (unreadBytes s)[j]? = Memory.read s.storage ((s.tail + j) % s.params.n)) ∧
    (s.params.n = 1 → s.head = s.tail ∧ (s.head + 1) % s.params.n = s.tail)

/-- R91: READ with no other agent's step inside it takes the oldest unread byte; of an empty buffer it returns `None`. -/
def Obligations.ReadAloneTakesTheOldestByte : Prop :=
  ∀ s : State, Inv s → s.fault = none → s.fgCur = none →
    (∀ v rest, unreadBytes s = v :: rest → ∃ t, execTimes .read 4 s = .next t ∧ unreadBytes t = rest ∧
      t = { s with
        tail := (s.tail + 1) % s.params.n
        fgPc := s.fgPc + 1, fgLog := s.fgLog ++ [⟨.read, .optByte (some v)⟩] }) ∧
    (unreadBytes s = [] → execTimes .read 2 s = .next { s with
      fgPc := s.fgPc + 1, fgLog := s.fgLog ++ [⟨.read, .optByte none⟩] })

/-- R92, R97: a PEEK of a buffer that is not empty returns the oldest byte and leaves it; a READ after it returns the
same byte, whatever a PUSH between them adds. -/
def Obligations.PeekThenReadReturnTheSameByte : Prop :=
  ∀ (s : State) (b : Byte), Inv s → s.fault = none → s.fgCur = none → s.params.rxMode = .interrupt →
    unreadBytes s ≠ [] →
    ∃ v t u w, execTimes .peek 3 s = .next t ∧ exec (.push b) t = .next u ∧ execTimes .read 4 u = .next w ∧
      (unreadBytes s).head? = some v ∧ unreadBytes t = unreadBytes s ∧
      t.fgLog = s.fgLog ++ [⟨.peek, .optByte (some v)⟩] ∧
      w.fgLog = t.fgLog ++ [⟨.read, .optByte (some v)⟩]

/-- R93: AVAIL with no other agent's step inside it returns the number of unread bytes; with a head copied earlier, the
result is at most the number there is. -/
def Obligations.AvailCountsTheUnreadBytes : Prop :=
  ∀ s : State, Inv s → s.fault = none →
    (s.fgCur = none → execTimes .avail 2 s = .next { s with
      fgPc := s.fgPc + 1, fgLog := s.fgLog ++ [⟨.avail, .count (unreadBytes s).length⟩] }) ∧
    (∀ h t, s.fgCur = some (.avail2 h) → exec .avail s = .next t →
      ∃ n, t.fgLog = s.fgLog ++ [⟨.avail, .count n⟩] ∧ n ≤ (unreadBytes t).length)

/-- R94, R98: right after a FLUSH with no push inside it, AVAIL returns 0, and the storage is as it was. -/
def Obligations.FlushThenAvailIsZero : Prop :=
  ∀ s : State, Inv s → s.fault = none → s.fgCur = none →
    ∃ t u, execTimes .flush 2 s = .next t ∧ execTimes .avail 2 t = .next u ∧ t.storage = s.storage ∧
      u.fgLog = s.fgLog ++ [⟨.flush, .done⟩, ⟨.avail, .count 0⟩]

/-- R67 (c), R94: a byte that is pushed between FLUSH's two micro-steps survives it, and that push is checked against
the old tail. -/
def Obligations.FlushSparesAByteStoredInsideIt : Prop :=
  ∀ (s : State) (b : Byte), Inv s → s.fault = none → s.params.rxMode = .interrupt →
    s.fgCur = some (.flush2 s.head) → (s.head + 1) % s.params.n ≠ s.tail →
    ∃ t u, exec (.push b) s = .next t ∧ exec .flush t = .next u ∧
      t.prLog = s.prLog ++ [⟨.push b, .stored true⟩] ∧ unreadBytes u = [b]

/-- R96: from an empty buffer each of at most N - 1 pushes returns 1 and AVAIL then returns their number; the N-th push
returns 0 and leaves everything but its log entry unchanged, AVAIL's result with it. -/
def Obligations.PushesSucceedUntilTheBufferIsFull : Prop :=
  ∀ (s : State) (bs : List Byte), Inv s → s.fault = none → s.params.rxMode = .interrupt → s.head = s.tail →
    bs.length ≤ s.params.n - 1 →
    ∃ t, pushEach bs s = .next t ∧ unreadBytes t = bs ∧
      t.prLog = s.prLog ++ bs.map (fun b => ⟨.push b, .stored true⟩) ∧
      (s.fgCur = none → ∃ u, execTimes .avail 2 t = .next u ∧
        u.fgLog = s.fgLog ++ [⟨.avail, .count bs.length⟩]) ∧
      (bs.length = s.params.n - 1 → ∀ b, ∃ w, exec (.push b) t = .next w ∧
        w = { t with prLog := t.prLog ++ [⟨.push b, .stored false⟩] } ∧
        (s.fgCur = none → ∃ u, execTimes .avail 2 w = .next u ∧
          u.fgLog = s.fgLog ++ [⟨.avail, .count bs.length⟩]))

/-- R87: masking is modulo where N is a power of two; for every other N it gives a wrong next cursor. -/
def Obligations.MaskingIsModuloForPowersOfTwoOnly : Prop :=
  ∀ p : Params,
    (∀ k, p.n = 2 ^ k → ∀ x, x % p.n = x &&& (p.n - 1)) ∧
    ((∀ k, p.n ≠ 2 ^ k) → ∃ c, c < p.n ∧ nextCursor p c ≠ (c + 1) &&& (p.n - 1))

/-- R6: W is `max(1, ceil(log2 N))`, the fewest bits, at least one, that hold every value in [0, N). -/
def Obligations.CursorWidthIsTheFewestBits : Prop :=
  ∀ p : Params, p.cursorWidth = max 1 (Nat.clog 2 p.n) ∧ (∀ v, v < p.n → v < 2 ^ p.cursorWidth) ∧
    (p.n = 65536 → p.cursorWidth = 16) ∧
    ∀ w, 1 ≤ w → (∀ v, v < p.n → v < 2 ^ w) → p.cursorWidth ≤ w

-- ==== receive path ====

/-- R105, R103: RXSVC where the interrupt is requested: the byte is taken, "byte ready" cleared, and the byte pushed or
dropped; R104: a drop leaves no other trace. -/
def Obligations.RxsvcTakesTheByteAndPushesIt : Prop :=
  ∀ s : State, s.fault = none → s.params.rxMode = .interrupt → s.rxie = true → s.rxready = true →
    s.head < s.params.n →
    exec .rxsvc s = .next
      (if (s.head + 1) % s.params.n = s.tail then
        { s with rxready := false, prLog := s.prLog ++ [⟨.rxsvc, .done⟩] }
      else
        { s with
          rxready := false
          storage := Memory.write s.storage s.head s.rxdata
          head := (s.head + 1) % s.params.n
          prLog := s.prLog ++ [⟨.rxsvc, .done⟩] })

/-- R105, R126: where the interrupt is not requested RXSVC holds. -/
def Obligations.RxsvcHoldsUnlessRequested : Prop :=
  ∀ s : State, s.fault = none →
    ¬ (s.params.rxMode = .interrupt ∧ s.rxie = true ∧ s.rxready = true) → exec .rxsvc s = .next s

/-- R106, R103, R58: the micro-steps of POLL in order, in POLLED mode. -/
def Obligations.PollMicroStepsInOrder : Prop :=
  ∀ s : State, s.fault = none →
    (s.fgCur = none → s.params.rxMode = .polled → s.rxready = false →
      exec .poll s = .next { s with
        fgPc := s.fgPc + 1, fgCur := none, fgLog := s.fgLog ++ [⟨.poll, .done⟩] }) ∧
    (s.fgCur = none → s.params.rxMode = .polled → s.rxready = true →
      exec .poll s = .next { s with fgCur := some .poll2 }) ∧
    (s.fgCur = some .poll2 →
      exec .poll s = .next { s with rxready := false, fgCur := some (.poll3 s.rxdata) }) ∧
    (∀ v, s.fgCur = some (.poll3 v) → exec .poll s = .next { s with fgCur := some (.poll4 v s.head) }) ∧
    (∀ v h, s.fgCur = some (.poll4 v h) → (h + 1) % s.params.n = s.tail →
      exec .poll s = .next { s with
        fgPc := s.fgPc + 1, fgCur := none, fgLog := s.fgLog ++ [⟨.poll, .done⟩] }) ∧
    (∀ v h, s.fgCur = some (.poll4 v h) → (h + 1) % s.params.n ≠ s.tail →
      exec .poll s = .next { s with fgCur := some (.poll5 v h s.tail) }) ∧
    (∀ v h t, s.fgCur = some (.poll5 v h t) → h < s.params.n →
      exec .poll s = .next { s with
        storage := Memory.write s.storage h v, fgCur := some (.poll6 v h t) }) ∧
    (∀ v h t, s.fgCur = some (.poll6 v h t) →
      exec .poll s = .next { s with
        head := (h + 1) % s.params.n
        fgPc := s.fgPc + 1, fgCur := none, fgLog := s.fgLog ++ [⟨.poll, .done⟩] })

/-- R107: POLL in POLLED mode and RXSVC in INTERRUPT mode make the same ring-buffer transition from the same receive
register, cursors and storage. `s` is the polled machine, `s'` the other. -/
def Obligations.PollAndRxsvcMakeTheSameTransition : Prop :=
  ∀ s s' : State, s.fault = none → s'.fault = none → s.fgCur = none → s.params.rxMode = .polled →
    s.rxready = true → s'.params.rxMode = .interrupt → s'.rxie = true → s'.rxready = true →
    s.params.n = s'.params.n → s.head = s'.head → s.tail = s'.tail → s.storage = s'.storage →
    s.rxdata = s'.rxdata → s.head < s.params.n →
    ∃ k t t', execTimes .poll k s = .next t ∧ t.fgCur = none ∧ t.fgPc = s.fgPc + 1 ∧ exec .rxsvc s' = .next t' ∧
      t.head = t'.head ∧ t.tail = t'.tail ∧ t.storage = t'.storage ∧ t.rxready = false ∧ t'.rxready = false

/-- R100, R101, R102: what the arrival of a byte does, in each of its three cases. -/
def Obligations.ArrivingByteIsTakenLostOrOverruns : Prop :=
  ∀ (s : State) (b : Byte) (keepNew : Bool), s.fault = none → nextAgent s = .rxArrive b keepNew →
    (s.rxen = true → s.rxready = false →
      step s = .next { consumeChoice s with rxdata := b, rxready := true }) ∧
    (s.rxen = false → step s = .next (consumeChoice s)) ∧
    (s.rxen = true → s.rxready = true →
      step s = .next { consumeChoice s with rxdata := if keepNew then b else s.rxdata })

/-- R36, R54, R109: who clears and who sets "byte ready": RXSVC, POLL's micro-step 2 and CLOSE (where
`CLOSE_CLEARS_RX` is 1) clear it, RX_ARRIVE with the receiver enabled sets it. That an RXSVC which the interrupt
delivery runs is logged as any other is the model's reading of R45 (log 21). -/
def Obligations.ByteReadyHasTheStatedWriters : Prop :=
  ∀ s s' : State, step s = .next s' →
    (s.rxready = true → s'.rxready = false →
      ((nextAgent s = .interrupt ∨ nextAgent s = .producer) ∧ interruptRequested s = true ∧
        s'.prLog = s.prLog ++ [⟨.rxsvc, .done⟩]) ∨
      (nextAgent s = .foreground ∧ s.fgCur = some .poll2) ∨
      (nextAgent s = .foreground ∧ s.params.closeClearsRx = true ∧ s'.fgLog = s.fgLog ++ [⟨.close, .done⟩])) ∧
    (s.rxready = false → s'.rxready = true →
      ∃ b keepNew, nextAgent s = .rxArrive b keepNew ∧ s.rxen = true ∧ s'.rxdata = b)

-- ==== transmit path ====

/-- R110: the micro-steps of WRITE: it waits, without its request advancing, until the transmit register is empty, and
then writes register and flag in one micro-step. -/
def Obligations.WriteMicroStepsInOrder : Prop :=
  ∀ (b : Byte) (s : State), s.fault = none →
    (s.fgCur = none → s.txen = true → s.txempty = false →
      exec (.write b) s = .next { s with fgCur := some (.write1 b) }) ∧
    (s.fgCur = none → s.txen = true → s.txempty = true →
      exec (.write b) s = .next { s with fgCur := some (.write2 b) }) ∧
    (s.fgCur = some (.write1 b) → s.txempty = false → exec (.write b) s = .next s) ∧
    (s.fgCur = some (.write1 b) → s.txempty = true →
      exec (.write b) s = .next { s with fgCur := some (.write2 b) }) ∧
    (s.fgCur = some (.write2 b) →
      exec (.write b) s = .next { s with
        txdata := b, txempty := false
        fgPc := s.fgPc + 1, fgCur := none, fgLog := s.fgLog ++ [⟨.write b, .done⟩] })

/-- R111: TX_DRAIN sends the byte and frees the register where it is enabled, and has no step where it is not. -/
def Obligations.DrainSendsTheByteWhereEnabled : Prop :=
  ∀ s : State, s.fault = none → nextAgent s = .txDrain →
    (s.txen = true → s.txempty = false →
      step s = .next { consumeChoice s with txline := s.txline ++ [s.txdata], txempty := true }) ∧
    (¬ (s.txen = true ∧ s.txempty = false) → step s = .next (consumeChoice s))

/-- R113, R114: a step changes the bytes transmitted or waiting only by the completion of a WRITE, which adds its byte
at the end: none is lost, repeated or reordered. -/
def Obligations.TransmittedBytesFollowTheWrites : Prop :=
  ∀ s s' : State, Inv s → step s = .next s' →
    transmitted s' = transmitted s ∨
    ∃ b, transmitted s' = transmitted s ++ [b] ∧ s'.fgLog = s.fgLog ++ [⟨.write b, .done⟩]

/-- R112: without a TX_DRAIN, a WRITE that waits never completes, however many steps of the other agents run. -/
def Obligations.WriteWithoutDrainNeverCompletes : Prop :=
  ∀ (k : Nat) (s s' : State) (b : Byte), s.fgCur = some (.write1 b) → s.txempty = false →
    k ≤ s.schedule.length → AgentStep.txDrain ∉ s.schedule →
    Sys2Proof.core.run k s = .next s' →
    s'.fgCur = some (.write1 b) ∧ s'.fgPc = s.fgPc ∧ s'.txempty = false ∧ s'.txline = s.txline

/-- R112: under `TxDrainFair`, and with FG chosen again and again, a WRITE in flight completes. The formula of
`TxDrainFair` and the premise on FG are the model's choice (log 25). -/
def Obligations.WriteCompletesUnderFairDrain : Prop :=
  ∀ (a : Nat → AgentStep) (r : Nat → State) (k : Nat) (b : Byte),
    IsRun a r → TxDrainFair a r → ForegroundFair a → Inv (r k) →
    (r k).fgCur = some (.write1 b) →
    ∃ j, k < j ∧ (r j).fgPc = (r k).fgPc + 1 ∧ (r j).fgLog = (r k).fgLog ++ [⟨.write b, .done⟩]

/-- R126, R127: under `RxServiceFair`, a requested interrupt is served in the end, or a CLOSE withdraws the request:
there is a step that ends the request, and it completes an RXSVC or a CLOSE. The formula of `RxServiceFair` is the
model's choice (log 25), and that a delivered RXSVC is logged its reading of R45 (log 21). -/
def Obligations.RequestedInterruptIsServedOrClosedUnderFairness : Prop :=
  ∀ (a : Nat → AgentStep) (r : Nat → State) (k : Nat),
    IsRun a r → RxServiceFair a r → Inv (r k) → interruptRequested (r k) = true →
    ∃ j, k ≤ j ∧ interruptRequested (r j) = true ∧ interruptRequested (r (j + 1)) = false ∧
      ((r (j + 1)).prLog = (r j).prLog ++ [⟨.rxsvc, .done⟩] ∨
       (r (j + 1)).fgLog = (r j).fgLog ++ [⟨.close, .done⟩])

/-- R115: a step that changes the transmit side changes nothing of the ring buffer or the receive side. -/
def Obligations.TransmitAndReceiveSidesAreSeparate : Prop :=
  ∀ s s' : State, step s = .next s' →
    (s'.txdata ≠ s.txdata ∨ s'.txempty ≠ s.txempty ∨ s'.txline ≠ s.txline) →
    s'.storage = s.storage ∧ s'.head = s.head ∧ s'.tail = s.tail ∧ s'.rxdata = s.rxdata ∧
    s'.rxready = s.rxready

-- ==== open and close ====

/-- R116: OPEN with a rate that is not zero: the baud configuration, the four enables, and nothing else of the
controller. -/
def Obligations.OpenConfiguresAndEnables : Prop :=
  ∀ (baud : ArgWord) (s : State), s.fault = none → s.fgCur = none → baud ≠ 0 →
    ∃ dbl : Bool, (dbl = false ↔ baud.toNat = s.params.legacyBaud ∧ s.params.fClk = s.params.legacyFclk) ∧
    exec (.openLine baud) s = .next { s with
      baud := baud, dbl := dbl, bauddiv := Config.divisorOf s.params.fClk baud.toNat dbl
      rxen := true, txen := true, rxie := true, opened := true
      fgPc := s.fgPc + 1, fgCur := none, fgLog := s.fgLog ++ [⟨.openLine baud, .done⟩] }

/-- R117: CLOSE: the four enables, "byte ready" where `CLOSE_CLEARS_RX` is 1, and nothing else of the controller. -/
def Obligations.CloseDisablesAndKeepsTheBuffer : Prop :=
  ∀ s : State, s.fault = none → s.fgCur = none →
    exec .close s = .next { s with
      rxen := false, txen := false, rxie := false, opened := false
      rxready := if s.params.closeClearsRx then false else s.rxready
      fgPc := s.fgPc + 1, fgCur := none, fgLog := s.fgLog ++ [⟨.close, .done⟩] }

/-- R118: the second of two OPENs decides: what they leave differs from what the second one alone leaves only in
`FG.pc` and `FG.log`; with one rate twice, the same holds of the first one alone. OPEN and CLOSE leave the ring buffer
as it was. -/
def Obligations.SecondOpenDecides : Prop :=
  ∀ (a b : ArgWord) (s : State), s.fault = none → s.fgCur = none → a ≠ 0 → b ≠ 0 →
    ∃ t u w, exec (.openLine a) s = .next t ∧ exec (.openLine b) t = .next u ∧ exec (.openLine b) s = .next w ∧
      u = { w with fgPc := u.fgPc, fgLog := u.fgLog } ∧
      (a = b → u = { t with fgPc := u.fgPc, fgLog := u.fgLog }) ∧
      u.head = s.head ∧ u.tail = s.tail ∧ u.storage = s.storage ∧
      ∃ c, exec .close s = .next c ∧ c.head = s.head ∧ c.tail = s.tail ∧ c.storage = s.storage

/-- R31: the four enables are equal after reset and stay equal; only OPEN and CLOSE write them, each to one value. -/
def Obligations.OnlyOpenAndCloseWriteTheEnables : Prop :=
  (∀ (p : Params) (u : PowerUp) (prog queue : List Request) (sched : List AgentStep),
    let s := State.resetWith p u prog queue sched
    s.opened = s.rxen ∧ s.rxen = s.txen ∧ s.txen = s.rxie) ∧
  ∀ s s' : State, step s = .next s' →
    (s.opened = s.rxen ∧ s.rxen = s.txen ∧ s.txen = s.rxie →
      s'.opened = s'.rxen ∧ s'.rxen = s'.txen ∧ s'.txen = s'.rxie) ∧
    (s'.opened ≠ s.opened ∨ s'.rxen ≠ s.rxen ∨ s'.txen ≠ s.txen ∨ s'.rxie ≠ s.rxie →
      nextAgent s = .foreground ∧
      (((∃ baud, s'.fgLog = s.fgLog ++ [⟨.openLine baud, .done⟩]) ∧
        s'.opened = true ∧ s'.rxen = true ∧ s'.txen = true ∧ s'.rxie = true) ∨
       (s'.fgLog = s.fgLog ++ [⟨.close, .done⟩] ∧
        s'.opened = false ∧ s'.rxen = false ∧ s'.txen = false ∧ s'.rxie = false)))

-- ==== frames ====

/-- READ, PEEK, AVAIL and FLUSH: all that a micro-step may change is FG's own state, the fault and, for READ and FLUSH,
the tail; PEEK and AVAIL leave the tail; no slot of the storage changes. -/
def Obligations.ConsumerRequestsFrame : Prop :=
  ∀ (i : Instr) (s t : State), i = .read ∨ i = .peek ∨ i = .avail ∨ i = .flush → exec i s = .next t →
    t = { s with tail := t.tail, fgPc := t.fgPc, fgCur := t.fgCur, fgLog := t.fgLog, fault := t.fault } ∧
    (i = .peek ∨ i = .avail → t.tail = s.tail) ∧
    (∀ a, Memory.read t.storage a = Memory.read s.storage a)

/-- PUSH and RXSVC: all that they may change is the slot at the head, the head, PR's log, the fault and, for RXSVC,
"byte ready" (R129: nothing that FG owns and no enable); every other slot reads as before, and every slot does where
the buffer is full. -/
def Obligations.ProducerRequestsFrame : Prop :=
  ∀ (i : Instr) (s t : State), i.port = .producer → exec i s = .next t →
    t = { s with
      storage := t.storage, head := t.head, rxready := t.rxready, prLog := t.prLog, fault := t.fault } ∧
    (i ≠ .rxsvc → t.rxready = s.rxready) ∧
    (∀ a, a ≠ s.head → Memory.read t.storage a = Memory.read s.storage a) ∧
    ((s.head + 1) % s.params.n = s.tail → t.storage = s.storage)

/-- POLL: all that a micro-step may change is FG's own state, the fault, "byte ready", the head and, at the micro-step
that stores, the slot its copy of the head names; every other slot reads as before. -/
def Obligations.PollFrame : Prop :=
  ∀ s t : State, exec .poll s = .next t →
    t = { s with
      storage := t.storage, head := t.head, rxready := t.rxready
      fgPc := t.fgPc, fgCur := t.fgCur, fgLog := t.fgLog, fault := t.fault } ∧
    (∀ v h k, s.fgCur = some (.poll5 v h k) →
      ∀ a, a ≠ h → Memory.read t.storage a = Memory.read s.storage a) ∧
    ((∀ v h k, s.fgCur ≠ some (.poll5 v h k)) →
      ∀ a, Memory.read t.storage a = Memory.read s.storage a)

/-- WRITE, OPEN and CLOSE: WRITE may change the transmit register and its flag, OPEN the baud configuration and the
enables, CLOSE the enables and "byte ready"; each may change FG's own state and the fault, and nothing else: no cursor,
no slot. -/
def Obligations.TransmitAndControlRequestsFrame : Prop :=
  ∀ s t : State,
    (∀ b, exec (.write b) s = .next t →
      t = { s with
        txdata := t.txdata, txempty := t.txempty
        fgPc := t.fgPc, fgCur := t.fgCur, fgLog := t.fgLog, fault := t.fault }) ∧
    (∀ baud, exec (.openLine baud) s = .next t →
      t = { s with
        baud := t.baud, dbl := t.dbl, bauddiv := t.bauddiv
        rxen := t.rxen, txen := t.txen, rxie := t.rxie, opened := t.opened
        fgPc := t.fgPc, fgCur := t.fgCur, fgLog := t.fgLog, fault := t.fault }) ∧
    (exec .close s = .next t →
      t = { s with
        rxready := t.rxready, rxen := t.rxen, txen := t.txen, rxie := t.rxie, opened := t.opened
        fgPc := t.fgPc, fgCur := t.fgCur, fgLog := t.fgLog, fault := t.fault }) ∧
    (∀ i : Instr, (∃ b, i = .write b) ∨ (∃ baud, i = .openLine baud) ∨ i = .close → exec i s = .next t →
      ∀ a, Memory.read t.storage a = Memory.read s.storage a)

-- ==== whole-machine rules ====

/-- R19, R20, R65: who moves a cursor: the head in INTERRUPT mode PR, in POLLED mode FG's POLL; the tail FG's READ and
FLUSH. -/
def Obligations.EachCursorHasOneWriter : Prop :=
  ∀ s s' : State, Inv s → step s = .next s' →
    (s'.head ≠ s.head →
      (s.params.rxMode = .interrupt ∧ (nextAgent s = .producer ∨ nextAgent s = .interrupt)) ∨
      (s.params.rxMode = .polled ∧ nextAgent s = .foreground ∧ ∃ v h t, s.fgCur = some (.poll6 v h t))) ∧
    (s'.tail ≠ s.tail → nextAgent s = .foreground ∧
      ((∃ h t v, s.fgCur = some (.read4 h t v)) ∨ ∃ h, s.fgCur = some (.flush2 h)))

/-- R8, R42, R45: no step changes the parameters or FG's program; the logs only grow, by at most one entry; `FG.pc`
counts the completed requests of FG. -/
def Obligations.LogsGrowAndParametersStay : Prop :=
  ∀ s s' : State, step s = .next s' →
    s'.params = s.params ∧ s'.fgProg = s.fgProg ∧
    ((s'.fgLog = s.fgLog ∧ s'.fgPc = s.fgPc) ∨ ∃ e, s'.fgLog = s.fgLog ++ [e] ∧ s'.fgPc = s.fgPc + 1) ∧
    (s'.prLog = s.prLog ∨ ∃ e, s'.prLog = s.prLog ++ [e])

/-- R18, R52: the laws of the storage: a write is read back, leaves every other slot alone and keeps the canonical form;
two storages in that form that read alike are equal. -/
def Obligations.StorageLaws : Prop :=
  (∀ (m : Memory) (i : Nat) (b : Byte), Memory.read (Memory.write m i b) i = some b) ∧
  (∀ (m : Memory) (i j : Nat) (b : Byte), j ≠ i → Memory.read (Memory.write m i b) j = Memory.read m j) ∧
  (∀ (m : Memory) (i : Nat) (b : Byte), Memory.wf m = true → Memory.wf (Memory.write m i b) = true) ∧
  (∀ m m' : Memory, Memory.wf m = true → Memory.wf m' = true →
    (∀ i, Memory.read m i = Memory.read m' i) → m = m')

-- ==== headline ====

/-- R22, R25, R26, R31, R43, R114: every step keeps the invariant, from every state that meets it. -/
def Obligations.StepKeepsTheInvariant : Prop :=
  ∀ s s' : State, Inv s → step s = .next s' → Inv s'

/-- R95: every step, from every state of the invariant, does to the unread bytes what its event does to a FIFO queue:
a successful push appends its byte, a READ takes the oldest, a FLUSH discards the oldest `k`, and nothing else changes
them. -/
def Obligations.StepsFollowAFifoQueue : Prop :=
  ∀ s s' : State, Inv s → step s = .next s' →
    (queueEvent s s').apply (unreadBytes s) = some (unreadBytes s')

/-- R95: the same of runs of any length: the events replayed on a FIFO queue give the unread bytes at the end, so bytes
leave in the order they entered and only a FLUSH skips any. -/
def Obligations.RunsReplayOnAFifoQueue : Prop :=
  ∀ (k : Nat) (s s' : State), Inv s → Sys2Proof.core.run k s = .next s' →
    replay (queueEvents k s) (unreadBytes s) = some (unreadBytes s')

/-- R91, R90, R105: the events are those the logs tell: a byte is taken exactly where READ logs it, a FLUSH entry of
the log is a discard, a PUSH that logs 1 stores its byte, one that logs 0 does nothing. -/
def Obligations.QueueEventsAreThoseOfTheLogs : Prop :=
  ∀ s s' : State, Inv s → step s = .next s' →
    (∀ v, queueEvent s s' = .taken v ↔ s'.fgLog = s.fgLog ++ [⟨.read, .optByte (some v)⟩]) ∧
    ((∃ k, queueEvent s s' = .discarded k) ↔ s'.fgLog = s.fgLog ++ [⟨.flush, .done⟩]) ∧
    (∀ b, s'.prLog = s.prLog ++ [⟨.push b, .stored true⟩] → queueEvent s s' = .stored b) ∧
    (∀ b, s'.prLog = s.prLog ++ [⟨.push b, .stored false⟩] → queueEvent s s' = .none)

-- ==== assembly ====

/-- R84, R85: the examples of R84 and the expansion of WRITES. -/
def Obligations.AssemblyLinesAssemble : Prop :=
  assembleLine "P: PUSH 0x41".toList = some [(.producer, ⟨0x1041, 0⟩)] ∧
  assembleLine "READ".toList = some [(.consumer, ⟨0x3000, 0⟩)] ∧
  assembleLine "OPEN 115200".toList = some [(.consumer, ⟨0x8000, 0x0001C200⟩)] ∧
  assembleLine "WRITE 0x43".toList = some [(.consumer, ⟨0xA043, 0⟩)] ∧
  (∀ bs, (Pseudo.writes bs).expand = bs.map Instr.write) ∧
  assembleLine "WRITES".toList = some [] ∧
  assembleLine "WRITES 0x41, 0x42".toList = some [(.consumer, ⟨0xA041, 0⟩), (.consumer, ⟨0xA042, 0⟩)]
end

