-- ==== Sys2Proof/Laws/Ring.lean ====
section
/-! SUPPORT. Small lemmas about the cursors and the unread slots. -/

namespace Sys2Proof.Machine

theorem Params.n_pos (p : Params) : 0 < p.n := Nat.succ_pos _

/-- The cursor after `c`, without `mod`. -/
theorem nextCursor_eq (p : Params) (c : Nat) (h : c < p.n) :
    nextCursor p c = if c + 1 = p.n then 0 else c + 1 := by
  unfold nextCursor
  split
  · next h' => rw [h', Nat.mod_self]
  · exact Nat.mod_eq_of_lt (by omega)

theorem nextCursor_lt (p : Params) (c : Nat) : nextCursor p c < p.n := Nat.mod_lt _ (Params.n_pos p)

/-- The count between two cursors, without `mod`. -/
theorem countBetween_eq (p : Params) (h t : Nat) (hh : h < p.n) (ht : t < p.n) :
    countBetween p h t = if t ≤ h then h - t else p.n + h - t := by
  unfold countBetween
  split
  · rw [show p.n + h - t = (h - t) + p.n by omega, Nat.add_mod_right, Nat.mod_eq_of_lt (by omega)]
  · exact Nat.mod_eq_of_lt (by omega)

theorem pushFull_iff (p : Params) (h t : Nat) : pushFull p h t = true ↔ nextCursor p h = t := by
  simp [pushFull]

theorem slotsFrom_length (p : Params) (t k : Nat) : (slotsFrom p t k).length = k := by
  induction k generalizing t with
  | zero => rfl
  | succ k ih => simp [slotsFrom, ih]

/-- The last of `k + 1` slots stands `k` places on. -/
theorem slotsFrom_succ (p : Params) (t k : Nat) (ht : t < p.n) :
    slotsFrom p t (k + 1) = slotsFrom p t k ++ [(t + k) % p.n] := by
  induction k generalizing t with
  | zero => simp [slotsFrom, Nat.mod_eq_of_lt ht]
  | succ k ih =>
    rw [slotsFrom, ih _ (nextCursor_lt p t), slotsFrom, List.cons_append]
    have : (nextCursor p t + k) % p.n = (t + (k + 1)) % p.n := by
      rw [nextCursor, Nat.mod_add_mod]; congr 1; omega
    rw [this]

/-- R25: the slots are `t`, `t + 1`, ..., indices mod N. -/
theorem mem_slotsFrom (p : Params) (t k i : Nat) (ht : t < p.n) :
    i ∈ slotsFrom p t k ↔ ∃ j, j < k ∧ i = (t + j) % p.n := by
  induction k with
  | zero => simp [slotsFrom]
  | succ k ih =>
    rw [slotsFrom_succ p t k ht, List.mem_append, ih]
    constructor
    · rintro (⟨j, hj, rfl⟩ | h)
      · exact ⟨j, by omega, rfl⟩
      · exact ⟨k, by omega, by simpa using h⟩
    · rintro ⟨j, hj, rfl⟩
      by_cases hjk : j = k
      · subst hjk; simp
      · exact .inl ⟨j, by omega, rfl⟩

theorem bytesFrom_zero (p : Params) (m : Memory) (t : Nat) : bytesFrom p m t 0 = [] := rfl

end Sys2Proof.Machine
end

