-- ==== Sys2Proof/Laws/State.lean ====
section
/-! SUPPORT. What each named update of the state leaves in each field: one lemma a field and update. -/

namespace Sys2Proof.Machine

@[simp] theorem goTo_params (c : InFlight) (s : State) : (goTo c s).params = s.params := rfl
@[simp] theorem goTo_storage (c : InFlight) (s : State) : (goTo c s).storage = s.storage := rfl
@[simp] theorem goTo_head (c : InFlight) (s : State) : (goTo c s).head = s.head := rfl
@[simp] theorem goTo_tail (c : InFlight) (s : State) : (goTo c s).tail = s.tail := rfl
@[simp] theorem goTo_opened (c : InFlight) (s : State) : (goTo c s).opened = s.opened := rfl
@[simp] theorem goTo_rxen (c : InFlight) (s : State) : (goTo c s).rxen = s.rxen := rfl
@[simp] theorem goTo_txen (c : InFlight) (s : State) : (goTo c s).txen = s.txen := rfl
@[simp] theorem goTo_rxie (c : InFlight) (s : State) : (goTo c s).rxie = s.rxie := rfl
@[simp] theorem goTo_baud (c : InFlight) (s : State) : (goTo c s).baud = s.baud := rfl
@[simp] theorem goTo_dbl (c : InFlight) (s : State) : (goTo c s).dbl = s.dbl := rfl
@[simp] theorem goTo_bauddiv (c : InFlight) (s : State) : (goTo c s).bauddiv = s.bauddiv := rfl
@[simp] theorem goTo_rxdata (c : InFlight) (s : State) : (goTo c s).rxdata = s.rxdata := rfl
@[simp] theorem goTo_rxready (c : InFlight) (s : State) : (goTo c s).rxready = s.rxready := rfl
@[simp] theorem goTo_txdata (c : InFlight) (s : State) : (goTo c s).txdata = s.txdata := rfl
@[simp] theorem goTo_txempty (c : InFlight) (s : State) : (goTo c s).txempty = s.txempty := rfl
@[simp] theorem goTo_txline (c : InFlight) (s : State) : (goTo c s).txline = s.txline := rfl
@[simp] theorem goTo_fgProg (c : InFlight) (s : State) : (goTo c s).fgProg = s.fgProg := rfl
@[simp] theorem goTo_fgPc (c : InFlight) (s : State) : (goTo c s).fgPc = s.fgPc := rfl
@[simp] theorem goTo_fgCur (c : InFlight) (s : State) : (goTo c s).fgCur = some c := rfl
@[simp] theorem goTo_fgLog (c : InFlight) (s : State) : (goTo c s).fgLog = s.fgLog := rfl
@[simp] theorem goTo_prLog (c : InFlight) (s : State) : (goTo c s).prLog = s.prLog := rfl
@[simp] theorem goTo_prQueue (c : InFlight) (s : State) : (goTo c s).prQueue = s.prQueue := rfl
@[simp] theorem goTo_fault (c : InFlight) (s : State) : (goTo c s).fault = s.fault := rfl
@[simp] theorem goTo_schedule (c : InFlight) (s : State) : (goTo c s).schedule = s.schedule := rfl
@[simp] theorem goTo_freeCount (c : InFlight) (s : State) : (goTo c s).freeCount = s.freeCount := rfl

@[simp] theorem fgComplete_params (i : Instr) (r : Result) (s : State) : (fgComplete i r s).params = s.params := rfl
@[simp] theorem fgComplete_storage (i : Instr) (r : Result) (s : State) : (fgComplete i r s).storage = s.storage := rfl
@[simp] theorem fgComplete_head (i : Instr) (r : Result) (s : State) : (fgComplete i r s).head = s.head := rfl
@[simp] theorem fgComplete_tail (i : Instr) (r : Result) (s : State) : (fgComplete i r s).tail = s.tail := rfl
@[simp] theorem fgComplete_opened (i : Instr) (r : Result) (s : State) : (fgComplete i r s).opened = s.opened := rfl
@[simp] theorem fgComplete_rxen (i : Instr) (r : Result) (s : State) : (fgComplete i r s).rxen = s.rxen := rfl
@[simp] theorem fgComplete_txen (i : Instr) (r : Result) (s : State) : (fgComplete i r s).txen = s.txen := rfl
@[simp] theorem fgComplete_rxie (i : Instr) (r : Result) (s : State) : (fgComplete i r s).rxie = s.rxie := rfl
@[simp] theorem fgComplete_baud (i : Instr) (r : Result) (s : State) : (fgComplete i r s).baud = s.baud := rfl
@[simp] theorem fgComplete_dbl (i : Instr) (r : Result) (s : State) : (fgComplete i r s).dbl = s.dbl := rfl
@[simp] theorem fgComplete_bauddiv (i : Instr) (r : Result) (s : State) : (fgComplete i r s).bauddiv = s.bauddiv := rfl
@[simp] theorem fgComplete_rxdata (i : Instr) (r : Result) (s : State) : (fgComplete i r s).rxdata = s.rxdata := rfl
@[simp] theorem fgComplete_rxready (i : Instr) (r : Result) (s : State) : (fgComplete i r s).rxready = s.rxready := rfl
@[simp] theorem fgComplete_txdata (i : Instr) (r : Result) (s : State) : (fgComplete i r s).txdata = s.txdata := rfl
@[simp] theorem fgComplete_txempty (i : Instr) (r : Result) (s : State) : (fgComplete i r s).txempty = s.txempty := rfl
@[simp] theorem fgComplete_txline (i : Instr) (r : Result) (s : State) : (fgComplete i r s).txline = s.txline := rfl
@[simp] theorem fgComplete_fgProg (i : Instr) (r : Result) (s : State) : (fgComplete i r s).fgProg = s.fgProg := rfl
@[simp] theorem fgComplete_fgPc (i : Instr) (r : Result) (s : State) : (fgComplete i r s).fgPc = s.fgPc + 1 := rfl
@[simp] theorem fgComplete_fgCur (i : Instr) (r : Result) (s : State) : (fgComplete i r s).fgCur = none := rfl
@[simp] theorem fgComplete_fgLog (i : Instr) (r : Result) (s : State) : (fgComplete i r s).fgLog = s.fgLog ++ [⟨i, r⟩] := rfl
@[simp] theorem fgComplete_prLog (i : Instr) (r : Result) (s : State) : (fgComplete i r s).prLog = s.prLog := rfl
@[simp] theorem fgComplete_prQueue (i : Instr) (r : Result) (s : State) : (fgComplete i r s).prQueue = s.prQueue := rfl
@[simp] theorem fgComplete_fault (i : Instr) (r : Result) (s : State) : (fgComplete i r s).fault = s.fault := rfl
@[simp] theorem fgComplete_schedule (i : Instr) (r : Result) (s : State) : (fgComplete i r s).schedule = s.schedule := rfl
@[simp] theorem fgComplete_freeCount (i : Instr) (r : Result) (s : State) : (fgComplete i r s).freeCount = s.freeCount := rfl

@[simp] theorem prComplete_params (i : Instr) (r : Result) (s : State) : (prComplete i r s).params = s.params := rfl
@[simp] theorem prComplete_storage (i : Instr) (r : Result) (s : State) : (prComplete i r s).storage = s.storage := rfl
@[simp] theorem prComplete_head (i : Instr) (r : Result) (s : State) : (prComplete i r s).head = s.head := rfl
@[simp] theorem prComplete_tail (i : Instr) (r : Result) (s : State) : (prComplete i r s).tail = s.tail := rfl
@[simp] theorem prComplete_opened (i : Instr) (r : Result) (s : State) : (prComplete i r s).opened = s.opened := rfl
@[simp] theorem prComplete_rxen (i : Instr) (r : Result) (s : State) : (prComplete i r s).rxen = s.rxen := rfl
@[simp] theorem prComplete_txen (i : Instr) (r : Result) (s : State) : (prComplete i r s).txen = s.txen := rfl
@[simp] theorem prComplete_rxie (i : Instr) (r : Result) (s : State) : (prComplete i r s).rxie = s.rxie := rfl
@[simp] theorem prComplete_baud (i : Instr) (r : Result) (s : State) : (prComplete i r s).baud = s.baud := rfl
@[simp] theorem prComplete_dbl (i : Instr) (r : Result) (s : State) : (prComplete i r s).dbl = s.dbl := rfl
@[simp] theorem prComplete_bauddiv (i : Instr) (r : Result) (s : State) : (prComplete i r s).bauddiv = s.bauddiv := rfl
@[simp] theorem prComplete_rxdata (i : Instr) (r : Result) (s : State) : (prComplete i r s).rxdata = s.rxdata := rfl
@[simp] theorem prComplete_rxready (i : Instr) (r : Result) (s : State) : (prComplete i r s).rxready = s.rxready := rfl
@[simp] theorem prComplete_txdata (i : Instr) (r : Result) (s : State) : (prComplete i r s).txdata = s.txdata := rfl
@[simp] theorem prComplete_txempty (i : Instr) (r : Result) (s : State) : (prComplete i r s).txempty = s.txempty := rfl
@[simp] theorem prComplete_txline (i : Instr) (r : Result) (s : State) : (prComplete i r s).txline = s.txline := rfl
@[simp] theorem prComplete_fgProg (i : Instr) (r : Result) (s : State) : (prComplete i r s).fgProg = s.fgProg := rfl
@[simp] theorem prComplete_fgPc (i : Instr) (r : Result) (s : State) : (prComplete i r s).fgPc = s.fgPc := rfl
@[simp] theorem prComplete_fgCur (i : Instr) (r : Result) (s : State) : (prComplete i r s).fgCur = s.fgCur := rfl
@[simp] theorem prComplete_fgLog (i : Instr) (r : Result) (s : State) : (prComplete i r s).fgLog = s.fgLog := rfl
@[simp] theorem prComplete_prLog (i : Instr) (r : Result) (s : State) : (prComplete i r s).prLog = s.prLog ++ [⟨i, r⟩] := rfl
@[simp] theorem prComplete_prQueue (i : Instr) (r : Result) (s : State) : (prComplete i r s).prQueue = s.prQueue := rfl
@[simp] theorem prComplete_fault (i : Instr) (r : Result) (s : State) : (prComplete i r s).fault = s.fault := rfl
@[simp] theorem prComplete_schedule (i : Instr) (r : Result) (s : State) : (prComplete i r s).schedule = s.schedule := rfl
@[simp] theorem prComplete_freeCount (i : Instr) (r : Result) (s : State) : (prComplete i r s).freeCount = s.freeCount := rfl

@[simp] theorem advanceHead_params (h : Nat) (s : State) : (advanceHead h s).params = s.params := rfl
@[simp] theorem advanceHead_storage (h : Nat) (s : State) : (advanceHead h s).storage = s.storage := rfl
@[simp] theorem advanceHead_head (h : Nat) (s : State) : (advanceHead h s).head = nextCursor s.params h := rfl
@[simp] theorem advanceHead_tail (h : Nat) (s : State) : (advanceHead h s).tail = s.tail := rfl
@[simp] theorem advanceHead_opened (h : Nat) (s : State) : (advanceHead h s).opened = s.opened := rfl
@[simp] theorem advanceHead_rxen (h : Nat) (s : State) : (advanceHead h s).rxen = s.rxen := rfl
@[simp] theorem advanceHead_txen (h : Nat) (s : State) : (advanceHead h s).txen = s.txen := rfl
@[simp] theorem advanceHead_rxie (h : Nat) (s : State) : (advanceHead h s).rxie = s.rxie := rfl
@[simp] theorem advanceHead_baud (h : Nat) (s : State) : (advanceHead h s).baud = s.baud := rfl
@[simp] theorem advanceHead_dbl (h : Nat) (s : State) : (advanceHead h s).dbl = s.dbl := rfl
@[simp] theorem advanceHead_bauddiv (h : Nat) (s : State) : (advanceHead h s).bauddiv = s.bauddiv := rfl
@[simp] theorem advanceHead_rxdata (h : Nat) (s : State) : (advanceHead h s).rxdata = s.rxdata := rfl
@[simp] theorem advanceHead_rxready (h : Nat) (s : State) : (advanceHead h s).rxready = s.rxready := rfl
@[simp] theorem advanceHead_txdata (h : Nat) (s : State) : (advanceHead h s).txdata = s.txdata := rfl
@[simp] theorem advanceHead_txempty (h : Nat) (s : State) : (advanceHead h s).txempty = s.txempty := rfl
@[simp] theorem advanceHead_txline (h : Nat) (s : State) : (advanceHead h s).txline = s.txline := rfl
@[simp] theorem advanceHead_fgProg (h : Nat) (s : State) : (advanceHead h s).fgProg = s.fgProg := rfl
@[simp] theorem advanceHead_fgPc (h : Nat) (s : State) : (advanceHead h s).fgPc = s.fgPc := rfl
@[simp] theorem advanceHead_fgCur (h : Nat) (s : State) : (advanceHead h s).fgCur = s.fgCur := rfl
@[simp] theorem advanceHead_fgLog (h : Nat) (s : State) : (advanceHead h s).fgLog = s.fgLog := rfl
@[simp] theorem advanceHead_prLog (h : Nat) (s : State) : (advanceHead h s).prLog = s.prLog := rfl
@[simp] theorem advanceHead_prQueue (h : Nat) (s : State) : (advanceHead h s).prQueue = s.prQueue := rfl
@[simp] theorem advanceHead_fault (h : Nat) (s : State) : (advanceHead h s).fault = s.fault := rfl
@[simp] theorem advanceHead_schedule (h : Nat) (s : State) : (advanceHead h s).schedule = s.schedule := rfl
@[simp] theorem advanceHead_freeCount (h : Nat) (s : State) : (advanceHead h s).freeCount = s.freeCount := rfl

@[simp] theorem advanceTail_params (t : Nat) (s : State) : (advanceTail t s).params = s.params := rfl
@[simp] theorem advanceTail_storage (t : Nat) (s : State) : (advanceTail t s).storage = s.storage := rfl
@[simp] theorem advanceTail_head (t : Nat) (s : State) : (advanceTail t s).head = s.head := rfl
@[simp] theorem advanceTail_tail (t : Nat) (s : State) : (advanceTail t s).tail = nextCursor s.params t := rfl
@[simp] theorem advanceTail_opened (t : Nat) (s : State) : (advanceTail t s).opened = s.opened := rfl
@[simp] theorem advanceTail_rxen (t : Nat) (s : State) : (advanceTail t s).rxen = s.rxen := rfl
@[simp] theorem advanceTail_txen (t : Nat) (s : State) : (advanceTail t s).txen = s.txen := rfl
@[simp] theorem advanceTail_rxie (t : Nat) (s : State) : (advanceTail t s).rxie = s.rxie := rfl
@[simp] theorem advanceTail_baud (t : Nat) (s : State) : (advanceTail t s).baud = s.baud := rfl
@[simp] theorem advanceTail_dbl (t : Nat) (s : State) : (advanceTail t s).dbl = s.dbl := rfl
@[simp] theorem advanceTail_bauddiv (t : Nat) (s : State) : (advanceTail t s).bauddiv = s.bauddiv := rfl
@[simp] theorem advanceTail_rxdata (t : Nat) (s : State) : (advanceTail t s).rxdata = s.rxdata := rfl
@[simp] theorem advanceTail_rxready (t : Nat) (s : State) : (advanceTail t s).rxready = s.rxready := rfl
@[simp] theorem advanceTail_txdata (t : Nat) (s : State) : (advanceTail t s).txdata = s.txdata := rfl
@[simp] theorem advanceTail_txempty (t : Nat) (s : State) : (advanceTail t s).txempty = s.txempty := rfl
@[simp] theorem advanceTail_txline (t : Nat) (s : State) : (advanceTail t s).txline = s.txline := rfl
@[simp] theorem advanceTail_fgProg (t : Nat) (s : State) : (advanceTail t s).fgProg = s.fgProg := rfl
@[simp] theorem advanceTail_fgPc (t : Nat) (s : State) : (advanceTail t s).fgPc = s.fgPc := rfl
@[simp] theorem advanceTail_fgCur (t : Nat) (s : State) : (advanceTail t s).fgCur = s.fgCur := rfl
@[simp] theorem advanceTail_fgLog (t : Nat) (s : State) : (advanceTail t s).fgLog = s.fgLog := rfl
@[simp] theorem advanceTail_prLog (t : Nat) (s : State) : (advanceTail t s).prLog = s.prLog := rfl
@[simp] theorem advanceTail_prQueue (t : Nat) (s : State) : (advanceTail t s).prQueue = s.prQueue := rfl
@[simp] theorem advanceTail_fault (t : Nat) (s : State) : (advanceTail t s).fault = s.fault := rfl
@[simp] theorem advanceTail_schedule (t : Nat) (s : State) : (advanceTail t s).schedule = s.schedule := rfl
@[simp] theorem advanceTail_freeCount (t : Nat) (s : State) : (advanceTail t s).freeCount = s.freeCount := rfl

@[simp] theorem clearRxReady_params (s : State) : (clearRxReady s).params = s.params := rfl
@[simp] theorem clearRxReady_storage (s : State) : (clearRxReady s).storage = s.storage := rfl
@[simp] theorem clearRxReady_head (s : State) : (clearRxReady s).head = s.head := rfl
@[simp] theorem clearRxReady_tail (s : State) : (clearRxReady s).tail = s.tail := rfl
@[simp] theorem clearRxReady_opened (s : State) : (clearRxReady s).opened = s.opened := rfl
@[simp] theorem clearRxReady_rxen (s : State) : (clearRxReady s).rxen = s.rxen := rfl
@[simp] theorem clearRxReady_txen (s : State) : (clearRxReady s).txen = s.txen := rfl
@[simp] theorem clearRxReady_rxie (s : State) : (clearRxReady s).rxie = s.rxie := rfl
@[simp] theorem clearRxReady_baud (s : State) : (clearRxReady s).baud = s.baud := rfl
@[simp] theorem clearRxReady_dbl (s : State) : (clearRxReady s).dbl = s.dbl := rfl
@[simp] theorem clearRxReady_bauddiv (s : State) : (clearRxReady s).bauddiv = s.bauddiv := rfl
@[simp] theorem clearRxReady_rxdata (s : State) : (clearRxReady s).rxdata = s.rxdata := rfl
@[simp] theorem clearRxReady_rxready (s : State) : (clearRxReady s).rxready = false := rfl
@[simp] theorem clearRxReady_txdata (s : State) : (clearRxReady s).txdata = s.txdata := rfl
@[simp] theorem clearRxReady_txempty (s : State) : (clearRxReady s).txempty = s.txempty := rfl
@[simp] theorem clearRxReady_txline (s : State) : (clearRxReady s).txline = s.txline := rfl
@[simp] theorem clearRxReady_fgProg (s : State) : (clearRxReady s).fgProg = s.fgProg := rfl
@[simp] theorem clearRxReady_fgPc (s : State) : (clearRxReady s).fgPc = s.fgPc := rfl
@[simp] theorem clearRxReady_fgCur (s : State) : (clearRxReady s).fgCur = s.fgCur := rfl
@[simp] theorem clearRxReady_fgLog (s : State) : (clearRxReady s).fgLog = s.fgLog := rfl
@[simp] theorem clearRxReady_prLog (s : State) : (clearRxReady s).prLog = s.prLog := rfl
@[simp] theorem clearRxReady_prQueue (s : State) : (clearRxReady s).prQueue = s.prQueue := rfl
@[simp] theorem clearRxReady_fault (s : State) : (clearRxReady s).fault = s.fault := rfl
@[simp] theorem clearRxReady_schedule (s : State) : (clearRxReady s).schedule = s.schedule := rfl
@[simp] theorem clearRxReady_freeCount (s : State) : (clearRxReady s).freeCount = s.freeCount := rfl

@[simp] theorem depositTx_params (b : Byte) (s : State) : (depositTx b s).params = s.params := rfl
@[simp] theorem depositTx_storage (b : Byte) (s : State) : (depositTx b s).storage = s.storage := rfl
@[simp] theorem depositTx_head (b : Byte) (s : State) : (depositTx b s).head = s.head := rfl
@[simp] theorem depositTx_tail (b : Byte) (s : State) : (depositTx b s).tail = s.tail := rfl
@[simp] theorem depositTx_opened (b : Byte) (s : State) : (depositTx b s).opened = s.opened := rfl
@[simp] theorem depositTx_rxen (b : Byte) (s : State) : (depositTx b s).rxen = s.rxen := rfl
@[simp] theorem depositTx_txen (b : Byte) (s : State) : (depositTx b s).txen = s.txen := rfl
@[simp] theorem depositTx_rxie (b : Byte) (s : State) : (depositTx b s).rxie = s.rxie := rfl
@[simp] theorem depositTx_baud (b : Byte) (s : State) : (depositTx b s).baud = s.baud := rfl
@[simp] theorem depositTx_dbl (b : Byte) (s : State) : (depositTx b s).dbl = s.dbl := rfl
@[simp] theorem depositTx_bauddiv (b : Byte) (s : State) : (depositTx b s).bauddiv = s.bauddiv := rfl
@[simp] theorem depositTx_rxdata (b : Byte) (s : State) : (depositTx b s).rxdata = s.rxdata := rfl
@[simp] theorem depositTx_rxready (b : Byte) (s : State) : (depositTx b s).rxready = s.rxready := rfl
@[simp] theorem depositTx_txdata (b : Byte) (s : State) : (depositTx b s).txdata = b := rfl
@[simp] theorem depositTx_txempty (b : Byte) (s : State) : (depositTx b s).txempty = false := rfl
@[simp] theorem depositTx_txline (b : Byte) (s : State) : (depositTx b s).txline = s.txline := rfl
@[simp] theorem depositTx_fgProg (b : Byte) (s : State) : (depositTx b s).fgProg = s.fgProg := rfl
@[simp] theorem depositTx_fgPc (b : Byte) (s : State) : (depositTx b s).fgPc = s.fgPc := rfl
@[simp] theorem depositTx_fgCur (b : Byte) (s : State) : (depositTx b s).fgCur = s.fgCur := rfl
@[simp] theorem depositTx_fgLog (b : Byte) (s : State) : (depositTx b s).fgLog = s.fgLog := rfl
@[simp] theorem depositTx_prLog (b : Byte) (s : State) : (depositTx b s).prLog = s.prLog := rfl
@[simp] theorem depositTx_prQueue (b : Byte) (s : State) : (depositTx b s).prQueue = s.prQueue := rfl
@[simp] theorem depositTx_fault (b : Byte) (s : State) : (depositTx b s).fault = s.fault := rfl
@[simp] theorem depositTx_schedule (b : Byte) (s : State) : (depositTx b s).schedule = s.schedule := rfl
@[simp] theorem depositTx_freeCount (b : Byte) (s : State) : (depositTx b s).freeCount = s.freeCount := rfl

@[simp] theorem consumeChoice_params (s : State) : (consumeChoice s).params = s.params := by
  unfold consumeChoice; split <;> rfl
@[simp] theorem consumeChoice_storage (s : State) : (consumeChoice s).storage = s.storage := by
  unfold consumeChoice; split <;> rfl
@[simp] theorem consumeChoice_head (s : State) : (consumeChoice s).head = s.head := by
  unfold consumeChoice; split <;> rfl
@[simp] theorem consumeChoice_tail (s : State) : (consumeChoice s).tail = s.tail := by
  unfold consumeChoice; split <;> rfl
@[simp] theorem consumeChoice_opened (s : State) : (consumeChoice s).opened = s.opened := by
  unfold consumeChoice; split <;> rfl
@[simp] theorem consumeChoice_rxen (s : State) : (consumeChoice s).rxen = s.rxen := by
  unfold consumeChoice; split <;> rfl
@[simp] theorem consumeChoice_txen (s : State) : (consumeChoice s).txen = s.txen := by
  unfold consumeChoice; split <;> rfl
@[simp] theorem consumeChoice_rxie (s : State) : (consumeChoice s).rxie = s.rxie := by
  unfold consumeChoice; split <;> rfl
@[simp] theorem consumeChoice_baud (s : State) : (consumeChoice s).baud = s.baud := by
  unfold consumeChoice; split <;> rfl
@[simp] theorem consumeChoice_dbl (s : State) : (consumeChoice s).dbl = s.dbl := by
  unfold consumeChoice; split <;> rfl
@[simp] theorem consumeChoice_bauddiv (s : State) : (consumeChoice s).bauddiv = s.bauddiv := by
  unfold consumeChoice; split <;> rfl
@[simp] theorem consumeChoice_rxdata (s : State) : (consumeChoice s).rxdata = s.rxdata := by
  unfold consumeChoice; split <;> rfl
@[simp] theorem consumeChoice_rxready (s : State) : (consumeChoice s).rxready = s.rxready := by
  unfold consumeChoice; split <;> rfl
@[simp] theorem consumeChoice_txdata (s : State) : (consumeChoice s).txdata = s.txdata := by
  unfold consumeChoice; split <;> rfl
@[simp] theorem consumeChoice_txempty (s : State) : (consumeChoice s).txempty = s.txempty := by
  unfold consumeChoice; split <;> rfl
@[simp] theorem consumeChoice_txline (s : State) : (consumeChoice s).txline = s.txline := by
  unfold consumeChoice; split <;> rfl
@[simp] theorem consumeChoice_fgProg (s : State) : (consumeChoice s).fgProg = s.fgProg := by
  unfold consumeChoice; split <;> rfl
@[simp] theorem consumeChoice_fgPc (s : State) : (consumeChoice s).fgPc = s.fgPc := by
  unfold consumeChoice; split <;> rfl
@[simp] theorem consumeChoice_fgCur (s : State) : (consumeChoice s).fgCur = s.fgCur := by
  unfold consumeChoice; split <;> rfl
@[simp] theorem consumeChoice_fgLog (s : State) : (consumeChoice s).fgLog = s.fgLog := by
  unfold consumeChoice; split <;> rfl
@[simp] theorem consumeChoice_prLog (s : State) : (consumeChoice s).prLog = s.prLog := by
  unfold consumeChoice; split <;> rfl
@[simp] theorem consumeChoice_prQueue (s : State) : (consumeChoice s).prQueue = s.prQueue := by
  unfold consumeChoice; split <;> rfl
@[simp] theorem consumeChoice_fault (s : State) : (consumeChoice s).fault = s.fault := by
  unfold consumeChoice; split <;> rfl

/-- Choosing the agent changes the schedule and the count of free choices alone. -/
theorem consumeChoice_eq (s : State) :
    consumeChoice s = { s with
      schedule := (consumeChoice s).schedule, freeCount := (consumeChoice s).freeCount } := by
  unfold consumeChoice; split <;> rfl

end Sys2Proof.Machine
end

