-- ==== Sys2Proof/Laws/Exec.lean ====
section
/-! SUPPORT. What each shared operation and each agent's step can do, said once: the equations of the operations, and `Effect`, all the ways one step of an agent can go on. Later proofs cite `step_effect` and go through its cases instead of unfolding the step. -/

namespace Sys2Proof.Machine

/-! ### Shared operations -/

theorem unlessFaulted_none {s : State} (h : s.fault = none) (go : Out) : unlessFaulted s go = go := by
  simp [unlessFaulted, h]

theorem unlessFaulted_some {s : State} {f : FaultRecord} (h : s.fault = some f) (go : Out) :
    unlessFaulted s go = .fault (.stopped f.code) := by
  simp [unlessFaulted, h]

/-- Whatever goes on had no fault. -/
theorem unlessFaulted_next {s t : State} {go : Out} (h : unlessFaulted s go = .next t) :
    s.fault = none ∧ go = .next t := by
  unfold unlessFaulted at h
  split at h
  · simp at h
  · next hf => exact ⟨hf, h⟩

theorem storeSlot_next {i : Nat} {b : Byte} {s t : State} {k : State → Out}
    (h : storeSlot i b s k = .next t) :
    i < s.params.n ∧ k { s with storage := Memory.write s.storage i b } = .next t := by
  unfold storeSlot at h
  split at h
  · next hi => exact ⟨hi, h⟩
  · simp at h

theorem loadSlot_next {req : Instr} {i : Nat} {s t : State} {k : Byte → Out}
    (h : loadSlot req i s k = .next t) :
    i < s.params.n ∧
      ((∃ v, Memory.read s.storage i = some v ∧ k v = .next t) ∨
        (Memory.read s.storage i = none ∧ raiseOwn .unwrittenRead req s = .next t)) := by
  unfold loadSlot at h
  split at h
  · next hi =>
    refine ⟨hi, ?_⟩
    split at h
    · next v hv => exact .inl ⟨v, hv, h⟩
    · next hv => exact .inr ⟨hv, h⟩
  · simp at h

/-- A push drops its byte, or stores it at the head and advances the head. -/
theorem pushCore_next {b : Byte} {s t : State} {k : Bool → State → Out} (h : pushCore b s k = .next t) :
    (nextCursor s.params s.head = s.tail ∧ k false s = .next t) ∨
      (nextCursor s.params s.head ≠ s.tail ∧ s.head < s.params.n ∧
        k true { s with
          storage := Memory.write s.storage s.head b, head := nextCursor s.params s.head } = .next t) := by
  unfold pushCore at h
  simp only at h
  split at h
  · next hf => exact .inl ⟨(pushFull_iff ..).1 hf, h⟩
  · next hf =>
    obtain ⟨hi, h⟩ := storeSlot_next h
    exact .inr ⟨fun hc => hf ((pushFull_iff ..).2 hc), hi, h⟩

/-- A request that decodes on a port is an operation of that port. -/
theorem decode_port {port : Port} {r : Request} {i : Instr} (h : decode port r = .ok i) : i.port = port := by
  unfold decode at h
  split at h
  · simp at h
  · next o ho =>
    split_ifs at h with h1 h2 h3
    have hp : o.port = port := by simpa using h3
    cases h
    rw [← hp]
    cases o <;> rfl

/-! ### What a step can do -/

/-- The request FG is about to issue. -/
def Issued (s : State) (i : Instr) : Prop :=
  ∃ r, s.fgProg[s.fgPc]? = some r ∧ decode .consumer r = .ok i

/-- All the ways the step of an agent can go on from `s` (the state whose choice of the agent is used up). -/
inductive Effect (s : State) : AgentStep → State → Prop
  | hold (a) : Effect s a s
  | fault (a) (f : FaultRecord)
      (hu : f.code = .unwrittenRead → ∃ h t, (s.fgCur = some (.read3 h t) ∨ s.fgCur = some (.peek3 h t)) ∧
        Memory.read s.storage t = none) :
      Effect s a { s with fault := some f }
  | readStart (hc : s.fgCur = none) (hi : Issued s .read) : Effect s .foreground (goTo (.read2 s.head) s)
  | readEmpty (h) (hc : s.fgCur = some (.read2 h)) (he : h = s.tail) :
      Effect s .foreground (fgComplete .read (.optByte none) s)
  | readTail (h) (hc : s.fgCur = some (.read2 h)) (he : h ≠ s.tail) :
      Effect s .foreground (goTo (.read3 h s.tail) s)
  | readLoad (h t v) (hc : s.fgCur = some (.read3 h t)) (hr : Memory.read s.storage t = some v) :
      Effect s .foreground (goTo (.read4 h t v) s)
  | readDone (h t v) (hc : s.fgCur = some (.read4 h t v)) :
      Effect s .foreground (fgComplete .read (.optByte (some v)) (advanceTail t s))
  | peekStart (hc : s.fgCur = none) (hi : Issued s .peek) : Effect s .foreground (goTo (.peek2 s.head) s)
  | peekEmpty (h) (hc : s.fgCur = some (.peek2 h)) (he : h = s.tail) :
      Effect s .foreground (fgComplete .peek (.optByte none) s)
  | peekTail (h) (hc : s.fgCur = some (.peek2 h)) (he : h ≠ s.tail) :
      Effect s .foreground (goTo (.peek3 h s.tail) s)
  | peekDone (h t v) (hc : s.fgCur = some (.peek3 h t)) (hr : Memory.read s.storage t = some v) :
      Effect s .foreground (fgComplete .peek (.optByte (some v)) s)
  | availStart (hc : s.fgCur = none) (hi : Issued s .avail) : Effect s .foreground (goTo (.avail2 s.head) s)
  | availDone (h) (hc : s.fgCur = some (.avail2 h)) :
      Effect s .foreground (fgComplete .avail (.count (countBetween s.params h s.tail)) s)
  | flushStart (hc : s.fgCur = none) (hi : Issued s .flush) : Effect s .foreground (goTo (.flush2 s.head) s)
  | flushDone (h) (hc : s.fgCur = some (.flush2 h)) :
      Effect s .foreground (fgComplete .flush .done { s with tail := h })
  | pollNone (hc : s.fgCur = none) (hi : Issued s .poll) (hm : s.params.rxMode = .polled)
      (hr : s.rxready = false) : Effect s .foreground (fgComplete .poll .done s)
  | pollStart (hc : s.fgCur = none) (hi : Issued s .poll) (hm : s.params.rxMode = .polled)
      (hr : s.rxready = true) : Effect s .foreground (goTo .poll2 s)
  | pollTake (hc : s.fgCur = some .poll2) : Effect s .foreground (goTo (.poll3 s.rxdata) (clearRxReady s))
  | pollHead (v) (hc : s.fgCur = some (.poll3 v)) : Effect s .foreground (goTo (.poll4 v s.head) s)
  | pollDrop (v h) (hc : s.fgCur = some (.poll4 v h)) (hf : nextCursor s.params h = s.tail) :
      Effect s .foreground (fgComplete .poll .done s)
  | pollTail (v h) (hc : s.fgCur = some (.poll4 v h)) (hf : nextCursor s.params h ≠ s.tail) :
      Effect s .foreground (goTo (.poll5 v h s.tail) s)
  | pollStore (v h t) (hc : s.fgCur = some (.poll5 v h t)) (hh : h < s.params.n) :
      Effect s .foreground (goTo (.poll6 v h t) { s with storage := Memory.write s.storage h v })
  | pollDone (v h t) (hc : s.fgCur = some (.poll6 v h t)) :
      Effect s .foreground (fgComplete .poll .done (advanceHead h s))
  | writeStart (b) (hc : s.fgCur = none) (hi : Issued s (.write b)) (ht : s.txen = true) :
      Effect s .foreground (pollTxEmpty b s)
  | writePoll (b) (hc : s.fgCur = some (.write1 b)) : Effect s .foreground (pollTxEmpty b s)
  | writeDone (b) (hc : s.fgCur = some (.write2 b)) :
      Effect s .foreground (fgComplete (.write b) .done (depositTx b s))
  | openDone (baud) (hc : s.fgCur = none) (hi : Issued s (.openLine baud)) :
      Effect s .foreground (fgComplete (.openLine baud) .done (setEnables true (configureBaud baud s)))
  | closeDone (hc : s.fgCur = none) (hi : Issued s .close) :
      Effect s .foreground (fgComplete .close .done { setEnables false s with rxready := closeRxReady s })
  | pushDrop (b) (q) (hm : s.params.rxMode = .interrupt) (hf : nextCursor s.params s.head = s.tail) :
      Effect s .producer { prComplete (.push b) (.stored false) s with prQueue := q }
  | pushStore (b) (q) (hm : s.params.rxMode = .interrupt) (hf : nextCursor s.params s.head ≠ s.tail)
      (hh : s.head < s.params.n) :
      Effect s .producer { prComplete (.push b) (.stored true) { s with
        storage := Memory.write s.storage s.head b, head := nextCursor s.params s.head } with prQueue := q }
  | rxsvcDrop (a) (q) (ha : a = .producer ∨ a = .interrupt) (hr : interruptRequested s = true)
      (hf : nextCursor s.params s.head = s.tail) :
      Effect s a { prComplete .rxsvc .done (clearRxReady s) with prQueue := q }
  | rxsvcStore (a) (q) (ha : a = .producer ∨ a = .interrupt) (hr : interruptRequested s = true)
      (hf : nextCursor s.params s.head ≠ s.tail) (hh : s.head < s.params.n) :
      Effect s a { prComplete .rxsvc .done { s with
        rxready := false, storage := Memory.write s.storage s.head s.rxdata
        head := nextCursor s.params s.head } with prQueue := q }
  | arrive (b k) : Effect s (.rxArrive b k) (arriveByte b k s)
  | drain : Effect s .txDrain (drainByte s)

/-- Taking a fault, as an effect. -/
theorem Effect.of_raise {s t : State} (a : AgentStep) {code : FaultCode} {port : Port} {r : Request}
    (hu : code = .unwrittenRead → ∃ h t, (s.fgCur = some (.read3 h t) ∨ s.fgCur = some (.peek3 h t)) ∧
        Memory.read s.storage t = none)
    (h : raise code port r s = .next t) : Effect s a t := by
  cases h
  exact .fault a _ hu

theorem decode_code {port : Port} {r : Request} {code : FaultCode} (h : decode port r = .error code) :
    code ≠ .unwrittenRead := by
  unfold decode at h
  split at h
  · cases h; simp
  · split_ifs at h <;> cases h <;> simp

/-- A request of FG goes on. -/
theorem exec_effect_of_inFlight {s t : State} {c : InFlight} (hc : s.fgCur = some c)
    (h : exec c.request s = .next t) : Effect s .foreground t := by
  cases c <;> simp only [InFlight.request, exec, execRead, execPeek, execAvail, execFlush, execPoll, execWrite] at h <;>
    replace h := (unlessFaulted_next h).2 <;> simp only [hc, if_true] at h
  case read2 x =>
    split at h
    · next he => cases h; exact .readEmpty x hc he
    · next he => cases h; exact .readTail x hc he
  case read3 x y =>
    obtain ⟨-, ⟨v, hv, h⟩ | ⟨hv, h⟩⟩ := loadSlot_next h
    · cases h; exact .readLoad x y v hc hv
    · exact .of_raise _ (fun _ => ⟨x, y, .inl hc, hv⟩) h
  case read4 x y v => cases h; exact .readDone x y v hc
  case peek2 x =>
    split at h
    · next he => cases h; exact .peekEmpty x hc he
    · next he => cases h; exact .peekTail x hc he
  case peek3 x y =>
    obtain ⟨-, ⟨v, hv, h⟩ | ⟨hv, h⟩⟩ := loadSlot_next h
    · cases h; exact .peekDone x y v hc hv
    · exact .of_raise _ (fun _ => ⟨x, y, .inr hc, hv⟩) h
  case avail2 x => cases h; exact .availDone x hc
  case flush2 x => cases h; exact .flushDone x hc
  case poll2 => cases h; exact .pollTake hc
  case poll3 v => cases h; exact .pollHead v hc
  case poll4 v x =>
    split at h
    · next he => cases h; exact .pollDrop v x hc ((pushFull_iff ..).1 he)
    · next he => cases h; exact .pollTail v x hc fun hf => he ((pushFull_iff ..).2 hf)
  case poll5 v x y =>
    obtain ⟨hx, h⟩ := storeSlot_next h
    cases h; exact .pollStore v x y hc hx
  case poll6 v x y => cases h; exact .pollDone v x y hc
  case write1 v => cases h; exact .writePoll v hc
  case write2 v => cases h; exact .writeDone v hc

/-- A request of FG starts. -/
theorem exec_effect_of_issued {s t : State} {i : Instr} (hc : s.fgCur = none) (hi : Issued s i)
    (h : exec i s = .next t) : Effect s .foreground t := by
  have hp : i.port = .consumer := by obtain ⟨r, -, hr⟩ := hi; exact decode_port hr
  cases i <;>
    simp only [exec, execPush, execRxsvc, execRead, execPeek, execAvail, execFlush, execPoll, execWrite, execOpen, execClose] at h <;>
    replace h := (unlessFaulted_next h).2 <;> try simp only [hc] at h
  case push b => simp [Instr.port, Instr.operation, Operation.port] at hp
  case rxsvc => simp [Instr.port, Instr.operation, Operation.port] at hp
  case read => cases h; exact .readStart hc hi
  case peek => cases h; exact .peekStart hc hi
  case avail => cases h; exact .availStart hc hi
  case flush => cases h; exact .flushStart hc hi
  case poll =>
    split at h
    · exact .of_raise _ (by simp) h
    · next hm =>
      have hm : s.params.rxMode = .polled := by cases hx : s.params.rxMode <;> simp_all
      split at h
      · next hr => cases h; exact .pollStart hc hi hm hr
      · next hr => cases h; exact .pollNone hc hi hm (by simpa using hr)
  case openLine baud =>
    split at h
    · exact .of_raise _ (by simp) h
    · cases h; exact .openDone baud hc hi
  case close => cases h; exact .closeDone hc hi
  case write b =>
    split at h
    · next ht => cases h; exact .writeStart b hc hi ht
    · exact .of_raise _ (by simp) h

theorem foregroundStep_effect {s t : State} (h : foregroundStep s = .next t) : Effect s .foreground t := by
  unfold foregroundStep at h
  split at h
  · next c hc => exact exec_effect_of_inFlight hc h
  · next hc =>
    split at h
    · cases h; exact .hold _
    · next r hr =>
      split at h
      · next code hd => exact .of_raise _ (fun hx => absurd hx (decode_code hd)) h
      · next i hd => exact exec_effect_of_issued hc ⟨r, hr, hd⟩ h

theorem execRxsvc_effect {s t : State} {a : AgentStep} (ha : a = .producer ∨ a = .interrupt)
    (h : execRxsvc s = .next t) (q : List Request) (hq : t = s → q = s.prQueue) :
    Effect s a { t with prQueue := q } := by
  obtain ⟨-, h⟩ := unlessFaulted_next h
  split at h
  · next hr =>
    rcases pushCore_next h with ⟨hf, h⟩ | ⟨hf, hh, h⟩
    · cases h; exact .rxsvcDrop a q ha hr hf
    · cases h; exact .rxsvcStore a q ha hr hf hh
  · cases h
    rw [hq rfl]
    exact .hold _

theorem producerStep_effect {s t : State} (hs : s.fault = none) (h : producerStep s = .next t) :
    Effect s .producer t := by
  unfold producerStep at h
  split at h
  · cases h; exact .hold _
  · next r rest hq =>
    split at h
    · next code hd => exact .of_raise _ (fun hx => absurd hx (decode_code hd)) h
    · next i hd =>
      have hp := decode_port hd
      split at h
      · cases h; exact .hold _
      · next hh =>
        cases hx : exec i s with
        | fault f => simp [dequeue, hx] at h
        | refused f => simp [dequeue, hx] at h
        | next u =>
          have hu : u.fault = none → t = { u with prQueue := rest } := fun hu => by
            simpa [dequeue, hx, hu] using h.symm
          simp only [dequeue, hx, Host.Outcome.next.injEq] at h
          cases i <;> simp [Instr.port, Instr.operation, Operation.port] at hp
          case push b =>
            obtain ⟨-, hx⟩ := unlessFaulted_next hx
            split at hx
            · cases hx; subst h; exact .fault _ _ (by simp [faultRecord])
            · next hm =>
              have hm : s.params.rxMode = .interrupt := by cases hx : s.params.rxMode <;> simp_all
              rcases pushCore_next hx with ⟨hf, hx⟩ | ⟨hf, hh, hx⟩
              · cases hx; rw [hu hs]; exact .pushDrop b rest hm hf
              · cases hx; rw [hu hs]; exact .pushStore b rest hm hf hh
          case rxsvc =>
            simp only [producerHolds, decide_true, Bool.true_and, Bool.not_eq_true', Bool.not_eq_false] at hh
            obtain ⟨-, hx⟩ := unlessFaulted_next hx
            simp only [hh, if_true] at hx
            rcases pushCore_next hx with ⟨hf, hx⟩ | ⟨hf, hh', hx⟩
            · cases hx; rw [hu hs]; exact .rxsvcDrop _ rest (.inl rfl) hh hf
            · cases hx; rw [hu hs]; exact .rxsvcStore _ rest (.inl rfl) hh hf hh'

/-- What one step does: it had no fault, and the chosen agent's step had one of the effects. -/
theorem step_effect {s s' : State} (h : step s = .next s') :
    s.fault = none ∧ Effect (consumeChoice s) (nextAgent s) s' := by
  obtain ⟨hf, h⟩ := unlessFaulted_next h
  refine ⟨hf, ?_⟩
  have hs : (consumeChoice s).fault = none := by simpa using hf
  cases ha : nextAgent s <;> simp only [ha, agentStep] at h
  case foreground => exact foregroundStep_effect h
  case producer => exact producerStep_effect hs h
  case interrupt => exact execRxsvc_effect (.inr rfl) h s'.prQueue (by rintro rfl; rfl)
  case rxArrive b k => cases h; exact .arrive b k
  case txDrain => cases h; exact .drain

/-! ### Placing a request -/

/-- The placed request is entry `k` of the program. -/
theorem placeAt_getElem (l : List Request) (k : Nat) (r : Request) : (placeAt l k r)[k]? = some r := by
  have hlen : (l.take k ++ List.replicate (k - l.length) r).length = k := by
    simp only [List.length_append, List.length_take, List.length_replicate]
    omega
  unfold placeAt
  rw [List.getElem?_append_right (by omega), hlen, Nat.sub_self]
  rfl

/-- The next step of a state with a consumer request placed is FG's, and runs what the request decodes to. -/
theorem step_placeRequest_consumer {r : Request} {s : State} {i : Instr} (hp : r.ownPort = .consumer)
    (hd : decode .consumer r = .ok i) :
    step (placeRequest r s) = exec i { placeRequest r s with schedule := s.schedule } := by
  simp [step, takeStep, unlessFaulted, placeRequest, hp, nextAgent, consumeChoice, agentStep, foregroundStep,
    placeAt_getElem, hd]

end Sys2Proof.Machine
end

