-- ==== Sys2Proof/Laws/Memory.lean ====
section
/-! SUPPORT. Small lemmas about the storage and its canonical form. -/

namespace Sys2Proof.Machine

@[simp] theorem Memory.read_nil (i : Nat) : Memory.read [] i = none := rfl

theorem Memory.read_cons (c : Host.Cell) (m : Memory) (i : Nat) :
    Memory.read (c :: m) i = if c.1 = i then some c.2 else Memory.read m i := rfl

@[simp] theorem Memory.wf_nil : Memory.wf [] = true := rfl

/-- The tail of a canonical storage is canonical. -/
theorem Memory.wf_tail {c : Host.Cell} {m : Memory} (h : Memory.wf (c :: m) = true) : Memory.wf m = true := by
  cases m with
  | nil => rfl
  | cons d m' => simp only [Memory.wf, Bool.and_eq_true] at h; exact h.2

/-- In a canonical storage the first slot is below every other. -/
theorem Memory.wf_first_lt {c : Host.Cell} {m : Memory} (h : Memory.wf (c :: m) = true) :
    ∀ d ∈ m, c.1 < d.1 := by
  induction m generalizing c with
  | nil => simp
  | cons d m ih =>
    have hcd : c.1 < d.1 := by simp only [Memory.wf, Bool.and_eq_true, decide_eq_true_eq] at h; exact h.1
    intro e he
    rcases List.mem_cons.1 he with rfl | he
    · exact hcd
    · exact lt_trans hcd (ih (Memory.wf_tail h) e he)

/-- A first slot below every other makes a canonical storage. -/
theorem Memory.wf_cons {c : Host.Cell} {m : Memory} (hm : Memory.wf m = true) (h : ∀ d ∈ m, c.1 < d.1) :
    Memory.wf (c :: m) = true := by
  cases m with
  | nil => rfl
  | cons d m' =>
    simp only [Memory.wf, Bool.and_eq_true, decide_eq_true_eq]
    exact ⟨h d (by simp), hm⟩

/-- Where a write's cells come from. -/
theorem Memory.mem_write {m : Memory} {i : Nat} {b : Byte} {c : Host.Cell} (h : c ∈ Memory.write m i b) :
    c = (i, b) ∨ c ∈ m := by
  induction m with
  | nil => simpa [Memory.write] using h
  | cons d m ih =>
    unfold Memory.write at h
    split at h
    · simpa using h
    · split at h
      · rcases List.mem_cons.1 h with h | h
        · exact .inl h
        · exact .inr (by simp [h])
      · rcases List.mem_cons.1 h with h | h
        · exact .inr (by simp [h])
        · exact (ih h).imp_right fun h => by simp [h]

/-- No cell of a slot, no value. -/
theorem Memory.read_eq_none_of_lt {m : Memory} {i : Nat} (h : ∀ d ∈ m, i < d.1) : Memory.read m i = none := by
  induction m with
  | nil => rfl
  | cons d m ih =>
    have : i < d.1 := h d (by simp)
    rw [Memory.read_cons, if_neg (by omega)]
    exact ih fun e he => h e (by simp [he])

/-- A write keeps the canonical form. -/
theorem Memory.write_wf {m : Memory} (h : Memory.wf m = true) (i : Nat) (b : Byte) :
    Memory.wf (Memory.write m i b) = true := by
  induction m with
  | nil => rfl
  | cons d m ih =>
    have hd := Memory.wf_first_lt h
    unfold Memory.write
    split_ifs with h1 h2
    · refine Memory.wf_cons h fun e he => ?_
      rcases List.mem_cons.1 he with rfl | he
      · exact h1
      · exact lt_trans h1 (hd e he)
    · subst h2
      exact Memory.wf_cons (Memory.wf_tail h) hd
    · refine Memory.wf_cons (ih (Memory.wf_tail h)) fun e he => ?_
      rcases Memory.mem_write he with rfl | he
      · show d.1 < i
        omega
      · exact hd e he

/-- The storage after reset is canonical. -/
theorem reset_storage_wf : Memory.wf State.reset.storage = true := rfl

end Sys2Proof.Machine
end

