-- ==== Sys2Proof/Laws/PerInstr.lean ====
section
/-! SUPPORT. Statements about each instruction as syntax, one lemma for each constructor. Family `Encoding`: the words of an instruction are well formed on its own port, and spell its operation code and nothing in the reserved field (R73, R77). -/

namespace Sys2Proof.Laws.Encoding

open Sys2Proof

/-- What the words of an instruction look like. -/
def Statement (i : Instr) : Prop :=
  (encode i).wellFormed i.port = true ∧ (encode i).op = i.operation.code ∧ (encode i).rsv = 0#4 ∧
    (encode i).imm8 = i.imm8 ∧ (encode i).ownPort = i.port

theorem push (b : Byte) : Statement (.push b) := by
  unfold Statement
  revert b
  decide

theorem rxsvc : Statement .rxsvc := by unfold Statement; decide

theorem read : Statement .read := by unfold Statement; decide

theorem peek : Statement .peek := by unfold Statement; decide

theorem avail : Statement .avail := by unfold Statement; decide

theorem flush : Statement .flush := by unfold Statement; decide

theorem poll : Statement .poll := by unfold Statement; decide

theorem openLine (baud : ArgWord) : Statement (.openLine baud) := by
  have hop : (encode (.openLine baud)).op = 0x8#4 := by
    show BitVec.extractLsb' 12 4 (0x8#4 ++ 0#4 ++ 0#8) = 0x8#4
    decide
  refine ⟨?_, hop, ?_, ?_, ?_⟩
  · show Request.wellFormed .consumer ⟨0x8#4 ++ 0#4 ++ 0#8, baud⟩ = true
    simp only [Request.wellFormed, Request.opcodeDefined, Request.reservedZero, Request.operandAllowed, Request.portFits]
    decide
  · show BitVec.extractLsb' 8 4 (0x8#4 ++ 0#4 ++ 0#8) = 0#4
    decide
  · show BitVec.extractLsb' 0 8 (0x8#4 ++ 0#4 ++ 0#8) = 0#8
    decide
  · unfold Request.ownPort
    rw [hop]
    rfl

theorem close : Statement .close := by unfold Statement; decide

theorem write (b : Byte) : Statement (.write b) := by
  unfold Statement
  revert b
  decide

end Sys2Proof.Laws.Encoding
end

