-- ==== Sys2Proof/Tests/Slice0.lean ====
section
/-! SUPPORT. Tests: the smoke test of WellFormed, words written out from the opcode map, single steps of the vectors of 95_test_vectors.md, and a witness for the hypotheses of each statement. -/

namespace Sys2Proof.Tests

open Sys2Proof Sys2Proof.Machine

/-! ### WellFormed: one ill-formed request for each check, and well-formed ones -/

-- R78: the codes on both sides of the defined range.
theorem test_wf_refuses_opcode_zero : Request.opcodeDefined ⟨0x0000, 0⟩ = false := by decide
theorem test_wf_refuses_opcode_B : Request.opcodeDefined ⟨0xB000, 0⟩ = false := by decide
-- DC5, DC4, DC6 and DC7 of 95_test_vectors.md.
theorem test_wf_refuses_reserved_field : Request.reservedZero ⟨0x1141, 0⟩ = false := by decide
theorem test_wf_refuses_operand_in_format_Z : Request.operandAllowed ⟨0x3001, 0⟩ = false := by decide
theorem test_wf_refuses_operand_in_format_O : Request.operandAllowed ⟨0x8001, 9600⟩ = false := by decide
theorem test_wf_refuses_push_on_consumer : Request.portFits .consumer ⟨0x1041, 0⟩ = false := by decide
theorem test_wf_refuses_read_on_producer : Request.portFits .producer ⟨0x3000, 0⟩ = false := by decide
theorem test_wf_refuses_each :
    Request.wellFormed .consumer ⟨0xB000, 0⟩ = false ∧ Request.wellFormed .producer ⟨0x1141, 0⟩ = false ∧
    Request.wellFormed .consumer ⟨0x3001, 0⟩ = false ∧ Request.wellFormed .consumer ⟨0x1041, 0⟩ = false := by
  decide
theorem test_wf_accepts :
    Request.wellFormed .producer ⟨0x1041, 0⟩ = true ∧ Request.wellFormed .consumer ⟨0x8000, 9600⟩ = true := by
  decide
-- R9: a clock of 0 Hz is no parameter.
theorem test_wf_refuses_zero_clock : Params.wellFormed { resetParams with fClk := 0 } = false := by decide
theorem test_wf_refuses_zero_legacy_baud : Params.wellFormed { resetParams with legacyBaud := 0 } = false := by decide
theorem test_wf_refuses_zero_legacy_clock : Params.wellFormed { resetParams with legacyFclk := 0 } = false := by decide
theorem test_wf_accepts_reset_parameters : resetParams.wellFormed = true := by decide

/-! ### Decoding: each constructor's word, bit by bit from R73 and R77 -/

theorem test_decode_push : decode .producer ⟨0b0001_0000_0100_0001, 0⟩ = .ok (.push 0x41) := by decide
theorem test_decode_rxsvc : decode .producer ⟨0b0010_0000_0000_0000, 0⟩ = .ok .rxsvc := by decide
theorem test_decode_read : decode .consumer ⟨0b0011_0000_0000_0000, 0⟩ = .ok .read := by decide
theorem test_decode_peek : decode .consumer ⟨0b0100_0000_0000_0000, 0⟩ = .ok .peek := by decide
theorem test_decode_avail : decode .consumer ⟨0b0101_0000_0000_0000, 0⟩ = .ok .avail := by decide
theorem test_decode_flush : decode .consumer ⟨0b0110_0000_0000_0000, 0⟩ = .ok .flush := by decide
theorem test_decode_poll : decode .consumer ⟨0b0111_0000_0000_0000, 0⟩ = .ok .poll := by decide
theorem test_decode_open : decode .consumer ⟨0b1000_0000_0000_0000, 0x0001C200⟩ = .ok (.openLine 115200) := by decide
theorem test_decode_close : decode .consumer ⟨0b1001_0000_0000_0000, 0⟩ = .ok .close := by decide
theorem test_decode_write : decode .consumer ⟨0b1010_0000_0100_0011, 0⟩ = .ok (.write 0x43) := by decide
-- DC2 and DC11 (R123: the reserved field goes before the operation's own check).
theorem test_decode_reserved_opcode : decode .consumer ⟨0xB000, 0⟩ = .error .illegalOpcode := by decide
theorem test_decode_reserved_before_own_check : decode .consumer ⟨0xA100, 0⟩ = .error .reservedBits := by decide
-- R79: where two checks fail the first one names the fault.
theorem test_decode_opcode_before_reserved : decode .producer ⟨0xF123, 0⟩ = .error .illegalOpcode := by decide
theorem test_decode_reserved_before_port : decode .consumer ⟨0x1141, 0⟩ = .error .reservedBits := by decide
-- The numbering of opcode_table.json: `REQ` in bits 15 to 0.
theorem test_table_word : decodeTableWord 16 0x1041 = some (.push 0x41) := by decide
theorem test_table_word_with_argument : decodeTableWord 48 0x000025808000 = some (.openLine 9600) := by decide
theorem test_table_word_refused : decodeTableWord 16 0xC000 = none := by decide

/-! ### Helpers -/

/-- The state an outcome goes on in. -/
def next? : Out → Option State
  | .next s => some s
  | .fault _ => none
  | .refused _ => none

/-- A machine of `n + 1` slots with its cursors and storage, and else as after reset. -/
def ring (n : Fin 65536) (mode : RxMode) (head tail : Nat) (m : Memory) : State :=
  { State.resetWith { resetParams with slotsLess1 := n, rxMode := mode } zeroPowerUp [] [] [] with
    storage := m, head := head, tail := tail }

/-- The same with a request of FG in flight. -/
def flying (c : InFlight) (s : State) : State := { s with fgCur := some c }

/-- The same with the four enables on. -/
def opened (s : State) : State := { s with opened := true, rxen := true, txen := true, rxie := true }

/-- The same with a byte in the receive register. -/
def ready (b : Byte) (s : State) : State := { s with rxdata := b, rxready := true }

/-- The same with the next agents chosen. -/
def sched (l : List AgentStep) (s : State) : State := { s with schedule := l }

/-- The same with a program for FG. -/
def prog (l : List Request) (s : State) : State := { s with fgProg := l }

/-- The same with requests waiting for PR. -/
def queued (l : List Request) (s : State) : State := { s with prQueue := l }

/-- The same with a byte in the transmit register. -/
def sending (b : Byte) (s : State) : State := { s with txdata := b, txempty := false }

/-- The same with a request of FG in flight, as its program's only request. -/
def issuedOne (c : InFlight) (s : State) : State := flying c (prog [encode c.request] s)

/-! ### Vectors of 95_test_vectors.md, one step each -/

-- RB2 and RB15: a full buffer drops the new byte; the head wraps where N is no power of two.
theorem test_push_full : (next? (exec (.push 0x42) (ring 7 .interrupt 7 0 []))).map
    (fun s => (s.head, s.storage, s.prLog)) = some (7, [], [⟨.push 0x42, .stored false⟩]) := by decide
theorem test_push_wraps : (next? (exec (.push 0x20) (ring 4 .interrupt 4 3 [(3, 0x10)]))).map
    (fun s => (s.head, s.storage, s.prLog)) =
    some (0, [(3, 0x10), (4, 0x20)], [⟨.push 0x20, .stored true⟩]) := by decide
-- RX5 and RX6
theorem test_rxsvc_stores : (next? (exec .rxsvc (ready 0x41 (opened (ring 7 .interrupt 3 3 []))))).map
    (fun s => (s.rxready, s.head, s.storage)) = some (false, 4, [(3, 0x41)]) := by decide
theorem test_rxsvc_drops : (next? (exec .rxsvc (ready 0x0A (opened (ring 7 .interrupt 7 0 []))))).map
    (fun s => (s.rxready, s.head, s.storage)) = some (false, 7, []) := by decide
-- RB6 and RB7, their last micro-steps
theorem test_read_empty : (next? (exec .read (flying (.read2 1) (ring 7 .interrupt 1 1 [(0, 0xFF)])))).map
    (fun s => (s.tail, s.fgLog.map (fun e => (e.result.valid, e.result.res)))) =
    some (1, [(some false, some 0xFFFF)]) := by decide
theorem test_read_wraps : (next? (exec .read (flying (.read4 0 7 0xFF) (ring 7 .interrupt 0 7 [(7, 0xFF)])))).map
    (fun s => (s.tail, s.fgLog.map (fun e => (e.result.valid, e.result.res)))) =
    some (0, [(some true, some 0x00FF)]) := by decide
-- RB8 and RB9, their last micro-steps
theorem test_peek_leaves_the_byte :
    (next? (exec .peek (flying (.peek3 3 1) (ring 7 .interrupt 3 1 [(1, 0xA), (2, 0xB)])))).map
    (fun s => (s.tail, s.fgLog)) = some (1, [⟨.peek, .optByte (some 0xA)⟩]) := by decide
theorem test_peek_empty : (next? (exec .peek (flying (.peek2 3) (ring 7 .interrupt 3 3 [])))).map (fun s => s.fgLog) =
    some [⟨.peek, .optByte none⟩] := by decide
-- RB10 and RB24: the count at a wrapped head and at the greatest N.
theorem test_avail_wrapped : (next? (exec .avail (flying (.avail2 2) (ring 7 .interrupt 2 6 [])))).map
    (fun s => s.fgLog) = some [⟨.avail, .count 4⟩] := by decide
theorem test_avail_full_at_65536 : (next? (exec .avail (flying (.avail2 0) (ring 65535 .interrupt 0 1 [])))).map
    (fun s => s.fgLog.map (fun e => (e.result.valid, e.result.res))) = some [(none, some 0xFFFF)] := by decide
-- RB14: FLUSH does not zero the storage. CV2: a byte stored inside FLUSH survives.
theorem test_flush_keeps_storage :
    (next? (exec .flush (flying (.flush2 0) (ring 7 .interrupt 0 4 [(4, 5), (5, 6), (6, 7), (7, 9)])))).map
    (fun s => (s.head, s.tail, s.storage)) = some (0, 0, [(4, 5), (5, 6), (6, 7), (7, 9)]) := by decide
theorem test_flush_is_not_atomic :
    (next? (exec .flush (flying (.flush2 2) (ring 3 .interrupt 3 0 [(0, 1), (1, 2), (2, 0xA)])))).map
    (fun s => (s.tail, unreadBytes s)) = some (2, [0xA]) := by decide
-- RX9 and RX10, the micro-step that takes the byte and the one that drops it
theorem test_poll_takes : (next? (exec .poll (flying .poll2 (ready 0x0A (ring 7 .polled 0 0 []))))).map
    (fun s => (s.rxready, s.fgCur)) = some (false, some (.poll3 0x0A)) := by decide
theorem test_poll_drops : (next? (exec .poll (flying (.poll4 0x0A 7) (ring 7 .polled 7 0 [])))).map
    (fun s => (s.head, s.storage, s.fgCur, s.fgPc)) = some (7, [], none, 1) := by decide
-- CT1 and CT3
theorem test_open : (next? (exec (.openLine 9600) State.reset)).map
    (fun s => (s.baud, s.dbl, s.opened && s.rxen && s.txen && s.rxie, s.head)) = some (9600, true, true, 0) := by decide
theorem test_open_legacy : (next? (exec (.openLine 57600) { State.reset with
    params := { resetParams with fClk := 16000000, legacyBaud := 57600, legacyFclk := 16000000 } })).map
    (fun s => s.dbl) = some false := by decide
-- CT5 and CT6
theorem test_close_keeps_ready : (next? (exec .close
    (ready 0 (opened (ring 7 .interrupt 3 1 [(1, 0xA), (2, 0xB)]))))).map
    (fun s => (s.rxready, s.opened || s.rxen || s.txen || s.rxie, unreadBytes s)) =
    some (true, false, [0xA, 0xB]) := by decide
theorem test_close_clears_ready : (next? (exec .close { ready 0 (opened (ring 7 .interrupt 0 0 [])) with
    params := { resetParams with closeClearsRx := true } })).map (fun s => s.rxready) = some false := by decide
-- TX1 and TX2
theorem test_write_deposits : (next? (exec (.write 0x41) (flying (.write2 0x41) (opened (ring 7 .interrupt 0 0 []))))).map
    (fun s => (s.txdata, s.txempty, s.fgPc)) = some (0x41, false, 1) := by decide
theorem test_write_waits : (next? (exec (.write 0x42) (sending 0x41 (opened (ring 7 .interrupt 0 0 []))))).map
    (fun s => (s.txdata, s.fgPc, s.writeWaits)) = some (0x41, 0, true) := by decide
-- RX1 to RX4
theorem test_arrive_disabled : (next? (step (sched [.rxArrive 0x41 true] (ring 7 .interrupt 0 0 [])))).map
    (fun s => (s.rxdata, s.rxready)) = some (0, false) := by decide
theorem test_arrive : (next? (step (sched [.rxArrive 0x41 true] (opened (ring 7 .interrupt 0 0 []))))).map
    (fun s => (s.rxdata, s.rxready)) = some (0x41, true) := by decide
theorem test_overrun_keeps_new : (next? (step (sched [.rxArrive 0x42 true]
    (ready 0x41 (opened (ring 7 .interrupt 0 0 [])))))).map (fun s => (s.rxdata, s.rxready)) =
    some (0x42, true) := by decide
theorem test_overrun_keeps_old : (next? (step (sched [.rxArrive 0x42 false]
    (ready 0x41 (opened (ring 7 .interrupt 0 0 [])))))).map (fun s => (s.rxdata, s.rxready)) =
    some (0x41, true) := by decide
-- RX7 and RX12: no request of the interrupt.
theorem test_interrupt_masked : interruptRequested (ready 0x41 (ring 7 .interrupt 0 0 [])) = false ∧
    interruptRequested (ready 0x41 (opened (ring 7 .polled 0 0 []))) = false := by decide
-- TX3 and TX4
theorem test_drain : (next? (step (sched [.txDrain] (sending 0x41 (opened (ring 7 .interrupt 0 0 [])))))).map
    (fun s => (s.txline, s.txempty)) = some ([0x41], true) := by decide
theorem test_drain_disabled : (next? (step (sched [.txDrain] (sending 0x41 (ring 7 .interrupt 0 0 []))))).map
    (fun s => (s.txline, s.txempty)) = some ([], false) := by decide
-- P5c: an illegal word in FG's program.
theorem test_illegal_word_faults : (next? (step (sched [.foreground] (prog [⟨0xC000, 0⟩] State.reset)))).map
    (fun s => (s.fault, s.fgPc)) = some (some ⟨.illegalOpcode, .consumer, 0xC000, none, some 0⟩, 0) := by decide
-- R150: at the end of a program with nothing queued the run is complete, with a fault it is not.
theorem test_complete : State.reset.complete = true ∧
    ({ State.reset with fault := some ⟨.baudZero, .consumer, 0x8000, some 0, some 0⟩ } : State).complete = false := by
  decide
-- The request placed is the one the next step runs, on either port.
theorem test_withFetchWord : (next? (step (State.reset.withFetchWord 16 0x5000))).map (fun s => s.fgCur) =
    some (some (.avail2 0)) := by decide
theorem test_withFetchWord_producer : (next? (step (State.reset.withFetchWord 16 0x1041))).map
    (fun s => (s.prLog, s.prQueue)) = some ([⟨.push 0x41, .stored true⟩], []) := by decide

/-! ### Witnesses: for each statement with hypotheses, states and operands that meet them -/

/-- The clauses of the invariant that a Bool can tell. -/
def invChecks (s : State) : Bool :=
  Memory.wf s.storage && s.storage.all (fun c => decide (c.1 < s.params.n)) && decide (s.head < s.params.n) &&
  decide (s.tail < s.params.n) && (s.opened == s.rxen) && (s.rxen == s.txen) && (s.txen == s.rxie) &&
  (slotsFrom s.params s.tail s.unreadCount).all (fun i => (Memory.read s.storage i).isSome) &&
  decide (s.fgPc ≤ s.fgProg.length) && decide (transmitted s = writtenBytes s.fgLog)

theorem inv_of_checks {s : State} (h : invChecks s = true) (hf : inFlightOk s) (hi : inFlightIssued s) : Inv s := by
  simp only [invChecks, Bool.and_eq_true, decide_eq_true_eq, List.all_eq_true, beq_iff_eq] at h
  obtain ⟨⟨⟨⟨⟨⟨⟨⟨⟨h1, h2⟩, h3⟩, h4⟩, h5⟩, h6⟩, h7⟩, h8⟩, h9⟩, h10⟩ := h
  exact ⟨h1, h2, h3, h4, ⟨h5, h6, h7⟩, h8, h9, hf, hi, h10⟩

/-- Nothing in flight. -/
theorem inv_idle {s : State} (h : invChecks s = true) (hc : s.fgCur = none) : Inv s :=
  inv_of_checks h (by unfold inFlightOk; rw [hc]; trivial) (fun c hx => by rw [hc] at hx; cases hx)

/-- The request in flight is the only one of FG's program. -/
theorem inv_flying {c : InFlight} {s : State} (hd : s.fgPc = 0 ∧ decode .consumer (encode c.request) = .ok c.request)
    (h : invChecks (issuedOne c s) = true) (hf : inFlightOk (issuedOne c s)) : Inv (issuedOne c s) := by
  refine inv_of_checks h hf fun d hx => ?_
  cases hx
  refine ⟨encode c.request, ?_, hd.2⟩
  show [encode c.request][s.fgPc]? = _
  rw [hd.1]
  rfl

/-- N = 8, empty, opened, interrupt mode. -/
def idle : State := opened (ring 7 .interrupt 3 3 [])

/-- N = 4 with one unread byte in the last slot. -/
def wrapped : State := opened (ring 3 .interrupt 0 3 [(3, 0x5A)])

/-- N = 4, full. -/
def full : State := opened (ring 3 .interrupt 2 3 [(0, 2), (1, 3), (3, 1)])

theorem idle_inv : Inv idle := inv_idle (by decide) rfl
theorem wrapped_inv : Inv wrapped := inv_idle (by decide) rfl
theorem full_inv : Inv full := inv_idle (by decide) rfl
theorem one_slot_inv : Inv (ring 0 .interrupt 0 0 []) := inv_idle (by decide) rfl

/-- A READ of `wrapped` before its last micro-step. -/
def reading : State := issuedOne (.read4 0 3 0x5A) wrapped

theorem reading_inv : Inv reading := inv_flying (by decide) (by decide) (by
  show headCopyOk reading 0 ∧ _ ∧ _ ∧ _; unfold headCopyOk; decide)

/-- A READ of `wrapped` before it reads its slot. -/
def loading : State := issuedOne (.read3 0 3) wrapped

theorem loading_inv : Inv loading := inv_flying (by decide) (by decide) (by
  show headCopyOk loading 0 ∧ _ ∧ _; unfold headCopyOk; decide)

/-- A FLUSH of `wrapped` before its last micro-step. -/
def flushing : State := issuedOne (.flush2 0) wrapped

theorem flushing_inv : Inv flushing := inv_flying (by decide) (by decide) (by
  show headCopyOk flushing 0; unfold headCopyOk; decide)

/-- An AVAIL of `wrapped` between its micro-steps. -/
def counting : State := issuedOne (.avail2 0) wrapped

theorem counting_inv : Inv counting := inv_flying (by decide) (by decide) (by
  show headCopyOk counting 0; unfold headCopyOk; decide)

/-- A POLL before its last micro-step, the byte stored in the last slot. -/
def polling : State := issuedOne (.poll6 0x0A 7 5) (opened (ring 7 .polled 7 5 [(5, 1), (6, 2), (7, 0x0A)]))

theorem polling_inv : Inv polling := inv_flying (by decide) (by decide) (by
  show _ ∧ _ ∧ _ ∧ _ ∧ _; decide)

/-- A WRITE that waits for byte 0x41 to go out; the log tells of the WRITE of that byte. -/
def waiting : State :=
  { State.resetWith resetParams zeroPowerUp [⟨0xA041, 0⟩, ⟨0xA042, 0⟩] [] [] with
    opened := true, rxen := true, txen := true, rxie := true, txdata := 0x41, txempty := false, fgPc := 1
    fgCur := some (.write1 0x42), fgLog := [⟨.write 0x41, .done⟩] }

theorem waiting_inv : Inv waiting := inv_of_checks (by decide) (by show waiting.txen = true; decide)
  (fun c hx => by cases hx; exact ⟨⟨0xA042, 0⟩, by decide, by decide⟩)

/-- The same WRITE before its last micro-step. -/
def depositing : State := { waiting with txempty := true, txline := [0x41], fgCur := some (.write2 0x42) }

theorem depositing_inv : Inv depositing := inv_of_checks (by decide) (by show _ ∧ _; decide)
  (fun c hx => by cases hx; exact ⟨⟨0xA042, 0⟩, by decide, by decide⟩)

-- encoding

theorem witness_DecodedWordIsTheEncodingOfItsInstruction :
    decode .consumer ⟨0x8000, 9600⟩ = .ok (.openLine 9600) ∧ (0x8000#16).extractLsb' 12 4 = 0x8#4 ∧
    decode .producer ⟨0x10FF, 7⟩ = .ok (.push 0xFF) := by decide

theorem witness_DecodeFaultsByTheFieldsInOrder :
    decode .consumer ⟨0x0FFF, 0⟩ = .error .illegalOpcode ∧ decode .consumer ⟨0xB000, 0⟩ = .error .illegalOpcode ∧
    decode .producer ⟨0x1F00, 0⟩ = .error .reservedBits ∧ decode .consumer ⟨0x9001, 0⟩ = .error .reservedBits ∧
    decode .consumer ⟨0x2000, 0⟩ = .error .wrongPort ∧ decode .producer ⟨0xA000, 0⟩ = .error .wrongPort ∧
    decode .producer ⟨0x1000, 0⟩ = .ok (.push 0) ∧ decode .consumer ⟨0xA000, 0⟩ = .ok (.write 0) := by decide

theorem witness_ResultWordsAsEncoded :
    let p : Params := { resetParams with slotsLess1 := 65535 }
    p.n = 65536 ∧ 0 < p.n ∧ 1 < p.n ∧ countBetween p 0 1 = 65535 := by decide

-- the step

theorem witness_StepIssuesTheForegroundRequest :
    let s := sched [.foreground] (prog [⟨0x3000, 0⟩] idle)
    s.fault = none ∧ nextAgent s = .foreground ∧ s.fgCur = none ∧ s.fgProg[s.fgPc]? = some ⟨0x3000, 0⟩ ∧
    decode .consumer ⟨0x3000, 0⟩ = .ok .read := by decide

theorem witness_StepIssuesTheForegroundRequest_malformed :
    let s := sched [.foreground] (prog [⟨0xC000, 0⟩] idle)
    s.fault = none ∧ nextAgent s = .foreground ∧ s.fgCur = none ∧ s.fgProg[s.fgPc]? = some ⟨0xC000, 0⟩ ∧
    decode .consumer ⟨0xC000, 0⟩ = .error .illegalOpcode := by decide

theorem witness_StepContinuesTheForegroundRequest :
    (let s := sched [.foreground] reading
     s.fault = none ∧ nextAgent s = .foreground ∧ s.fgCur = some (.read4 0 3 0x5A)) ∧
    (let s := sched [.foreground] idle
     s.fault = none ∧ nextAgent s = .foreground ∧ s.fgCur = none ∧ s.fgPc = s.fgProg.length) := by decide

theorem witness_StepRunsTheProducerRequest :
    let s := sched [.producer] (queued [⟨0x10FF, 0⟩] idle)
    s.fault = none ∧ nextAgent s = .producer ∧ s.prQueue = ⟨0x10FF, 0⟩ :: [] ∧
    decode .producer ⟨0x10FF, 0⟩ = .ok (.push 0xFF) ∧
    (next? (exec (.push 0xFF) (consumeChoice s))).map (fun t => t.fault) = some none := by decide

theorem witness_StepRunsTheProducerRequest_interrupt_requested :
    let s := sched [.producer] (queued [⟨0x2000, 0⟩] (ready 1 idle))
    s.fault = none ∧ nextAgent s = .producer ∧ s.prQueue = ⟨0x2000, 0⟩ :: [] ∧
    decode .producer ⟨0x2000, 0⟩ = .ok .rxsvc ∧ interruptRequested s = true ∧
    (next? (exec .rxsvc (consumeChoice s))).map (fun t => t.fault) = some none := by decide

theorem witness_StepRunsTheProducerRequest_fault :
    let s := sched [.producer] (queued [⟨0x1000, 0⟩] (ring 7 .polled 0 0 []))
    s.fault = none ∧ nextAgent s = .producer ∧ s.prQueue = ⟨0x1000, 0⟩ :: [] ∧
    decode .producer ⟨0x1000, 0⟩ = .ok (.push 0) ∧
    (next? (exec (.push 0) (consumeChoice s))).map (fun t => t.fault.isSome) = some true := by decide

theorem witness_StepRunsTheProducerRequest_hold :
    let s := sched [.producer] (queued [⟨0x2000, 0⟩] idle)
    s.fault = none ∧ nextAgent s = .producer ∧ s.prQueue = ⟨0x2000, 0⟩ :: [] ∧
    decode .producer ⟨0x2000, 0⟩ = .ok .rxsvc ∧ interruptRequested s = false := by decide

theorem witness_StepRunsTheProducerRequest_malformed :
    let s := sched [.producer] (queued [⟨0x3000, 0⟩] idle)
    s.fault = none ∧ nextAgent s = .producer ∧ s.prQueue = ⟨0x3000, 0⟩ :: [] ∧
    decode .producer ⟨0x3000, 0⟩ = .error .wrongPort := by decide

theorem witness_StepDeliversTheReceiveInterrupt :
    let s := sched [.interrupt] (ready 1 idle)
    s.fault = none ∧ nextAgent s = .interrupt := by decide

-- faults

theorem witness_FaultStopsEveryAgent :
    ({ idle with fault := some ⟨.baudZero, .consumer, 0x8000, some 0, some 0⟩ } : State).fault =
      some ⟨.baudZero, .consumer, 0x8000, some 0, some 0⟩ := by decide

theorem witness_FaultingRequestWritesOnlyTheRecord :
    ∃ t, exec (.openLine 0) State.reset = .next t ∧
      t.fault = some ⟨.baudZero, .consumer, 0x8000, some 0, some 0⟩ := ⟨_, rfl, by decide⟩

theorem witness_OperationChecksTakeTheirFaults :
    (let s := ring 7 .polled 0 0 []
     s.fault = none ∧ s.params.rxMode = .polled ∧ s.fgCur = none ∧ s.txen = false) ∧
    (State.reset.fault = none ∧ State.reset.fgCur = none ∧ State.reset.params.rxMode = .interrupt) := by decide

theorem witness_UnwrittenReadAndMissingSlotAreUnreachable :
    ∃ s s' f, Inv s ∧ step s = .next s' ∧ s'.fault = some f :=
  ⟨sched [.foreground] (prog [⟨0xC000, 0⟩] idle), _, ⟨.illegalOpcode, .consumer, 0xC000, none, some 0⟩,
    inv_idle (by decide) rfl, rfl, by decide⟩

theorem witness_ReadingAnUnwrittenSlotTakesTheFault :
    (let s := flying (.read3 3 7) (ring 7 .interrupt 3 7 [])
     s.fault = none ∧ 7 < s.params.n ∧ Memory.read s.storage 7 = none ∧ s.fgCur = some (.read3 3 7)) ∧
    (let s := flying (.peek3 3 0) (ring 7 .interrupt 3 0 [])
     s.fault = none ∧ 0 < s.params.n ∧ Memory.read s.storage 0 = none ∧ s.fgCur = some (.peek3 3 0)) := by decide

-- ring buffer, micro-steps

theorem witness_PushStoresOrDropsTheByte :
    (let s := ring 7 .interrupt 7 4 []
     s.fault = none ∧ s.params.rxMode = .interrupt ∧ s.head < s.params.n ∧ (s.head + 1) % s.params.n ≠ s.tail) ∧
    (full.fault = none ∧ full.params.rxMode = .interrupt ∧ full.head < full.params.n ∧
      (full.head + 1) % full.params.n = full.tail) := by decide

theorem witness_ReadMicroStepsInOrder :
    (idle.fault = none ∧ idle.fgCur = none) ∧
    (let s := flying (.read2 0) wrapped
     s.fault = none ∧ s.fgCur = some (.read2 0) ∧ 0 ≠ s.tail) ∧
    (let s := flying (.read2 3) idle
     s.fault = none ∧ s.fgCur = some (.read2 3) ∧ 3 = s.tail) ∧
    (let s := flying (.read3 0 3) wrapped
     s.fault = none ∧ s.fgCur = some (.read3 0 3) ∧ 3 < s.params.n ∧ Memory.read s.storage 3 = some 0x5A) ∧
    (reading.fault = none ∧ reading.fgCur = some (.read4 0 3 0x5A)) := by decide

theorem witness_ReadMicroStepsInOrder_producer : ∃ u, Inv loading ∧ loading.fault = none ∧
    loading.fgCur = some (.read3 0 3) ∧ Instr.port (.push 1) = .producer ∧ exec (.push 1) loading = .next u :=
  ⟨_, loading_inv, by decide, by decide, by decide, rfl⟩

theorem witness_PeekMicroStepsInOrder :
    (idle.fault = none ∧ idle.fgCur = none) ∧
    (let s := flying (.peek2 0) wrapped
     s.fault = none ∧ s.fgCur = some (.peek2 0) ∧ 0 ≠ s.tail) ∧
    (let s := flying (.peek2 3) idle
     s.fault = none ∧ s.fgCur = some (.peek2 3) ∧ 3 = s.tail) ∧
    (let s := flying (.peek3 0 3) wrapped
     s.fault = none ∧ s.fgCur = some (.peek3 0 3) ∧ 3 < s.params.n ∧ Memory.read s.storage 3 = some 0x5A) := by decide

theorem witness_AvailMicroStepsInOrder :
    idle.fault = none ∧ idle.fgCur = none ∧ counting.fault = none ∧ counting.fgCur = some (.avail2 0) := by decide

theorem witness_FlushMicroStepsInOrder :
    idle.fault = none ∧ idle.fgCur = none ∧ flushing.fault = none ∧ flushing.fgCur = some (.flush2 0) := by decide

theorem witness_BusyPortHoldsAnotherRequest :
    reading.fault = none ∧ Instr.port .avail = .consumer ∧ reading.fgCur = some (.read4 0 3 0x5A) ∧
    (InFlight.read4 0 3 0x5A).request ≠ .avail ∧
    waiting.fault = none ∧ waiting.fgCur = some (.write1 0x42) ∧ (InFlight.write1 0x42).request ≠ .write 0x43 := by
  decide

-- ring buffer, laws

theorem witness_CursorsTellEmptyFullAndCount :
    (Inv idle ∧ unreadBytes idle = []) ∧ (Inv full ∧ (full.head + 1) % full.params.n = full.tail) ∧
    (Inv wrapped ∧ 0 < (unreadBytes wrapped).length) ∧
    (Inv (ring 0 .interrupt 0 0 []) ∧ (ring 0 .interrupt 0 0 []).params.n = 1) :=
  ⟨⟨idle_inv, by decide⟩, ⟨full_inv, by decide⟩, ⟨wrapped_inv, by decide⟩, one_slot_inv, by decide⟩

theorem witness_ReadAloneTakesTheOldestByte :
    (Inv full ∧ full.fault = none ∧ full.fgCur = none ∧ unreadBytes full = 1 :: [2, 3]) ∧
    (Inv idle ∧ idle.fault = none ∧ idle.fgCur = none ∧ unreadBytes idle = []) :=
  ⟨⟨full_inv, by decide⟩, idle_inv, by decide⟩

theorem witness_PeekThenReadReturnTheSameByte :
    Inv full ∧ full.fault = none ∧ full.fgCur = none ∧ full.params.rxMode = .interrupt ∧ unreadBytes full ≠ [] :=
  ⟨full_inv, by decide⟩

theorem witness_AvailCountsTheUnreadBytes :
    (Inv full ∧ full.fault = none ∧ full.fgCur = none) ∧
    ∃ t, Inv counting ∧ counting.fault = none ∧ counting.fgCur = some (.avail2 0) ∧ exec .avail counting = .next t :=
  ⟨⟨full_inv, by decide⟩, _, counting_inv, by decide, by decide, rfl⟩

theorem witness_FlushThenAvailIsZero : Inv full ∧ full.fault = none ∧ full.fgCur = none :=
  ⟨full_inv, by decide⟩

theorem witness_FlushSparesAByteStoredInsideIt :
    Inv flushing ∧ flushing.fault = none ∧ flushing.params.rxMode = .interrupt ∧
    flushing.fgCur = some (.flush2 flushing.head) ∧ (flushing.head + 1) % flushing.params.n ≠ flushing.tail :=
  ⟨flushing_inv, by decide⟩

theorem witness_PushesSucceedUntilTheBufferIsFull :
    (Inv idle ∧ idle.fault = none ∧ idle.params.rxMode = .interrupt ∧ idle.head = idle.tail ∧ idle.fgCur = none ∧
      ([1, 2, 3, 4, 5, 6, 7] : List Byte).length = idle.params.n - 1) ∧
    (let s := ring 0 .interrupt 0 0 []
     Inv s ∧ s.fault = none ∧ s.params.rxMode = .interrupt ∧ s.head = s.tail ∧ s.fgCur = none ∧
      ([] : List Byte).length = s.params.n - 1) :=
  ⟨⟨idle_inv, by decide⟩, one_slot_inv, by decide⟩

theorem witness_MaskingIsModuloForPowersOfTwoOnly :
    Params.n { resetParams with slotsLess1 := 0 } = 2 ^ 0 ∧ Params.n { resetParams with slotsLess1 := 65535 } = 2 ^ 16 ∧
    ∀ k, Params.n { resetParams with slotsLess1 := 4 } ≠ 2 ^ k := by
  refine ⟨by decide, by decide, fun k h => ?_⟩
  have h5 : 5 = 2 ^ k := h
  have hk : k < 3 := by
    by_contra hk
    have : 2 ^ 3 ≤ 2 ^ k := Nat.pow_le_pow_right (by decide) (by omega)
    omega
  interval_cases k <;> omega

theorem witness_CursorWidthIsTheFewestBits :
    Params.cursorWidth { resetParams with slotsLess1 := 65535 } = 16 ∧
    Params.cursorWidth { resetParams with slotsLess1 := 0 } = 1 ∧
    (∀ v, v < Params.n { resetParams with slotsLess1 := 0 } → v < 2 ^ 1) := by
  refine ⟨by decide, by decide, fun v h => ?_⟩
  have h1 : v < 1 := h
  omega

-- receive path

theorem witness_RxsvcTakesTheByteAndPushesIt :
    (let s := ready 0xFF (opened (ring 7 .interrupt 7 4 []))
     s.fault = none ∧ s.params.rxMode = .interrupt ∧ s.rxie = true ∧ s.rxready = true ∧ s.head < s.params.n ∧
      (s.head + 1) % s.params.n ≠ s.tail) ∧
    (let s := ready 0x00 full
     s.fault = none ∧ s.params.rxMode = .interrupt ∧ s.rxie = true ∧ s.rxready = true ∧ s.head < s.params.n ∧
      (s.head + 1) % s.params.n = s.tail) := by decide

theorem witness_RxsvcHoldsUnlessRequested :
    (idle.fault = none ∧ ¬ (idle.params.rxMode = .interrupt ∧ idle.rxie = true ∧ idle.rxready = true)) ∧
    (let s := ready 1 (opened (ring 7 .polled 0 0 []))
     s.fault = none ∧ ¬ (s.params.rxMode = .interrupt ∧ s.rxie = true ∧ s.rxready = true)) ∧
    (let s := ready 1 (ring 7 .interrupt 0 0 [])
     s.fault = none ∧ ¬ (s.params.rxMode = .interrupt ∧ s.rxie = true ∧ s.rxready = true)) := by decide

theorem witness_PollMicroStepsInOrder :
    (let s := ring 7 .polled 7 5 []
     s.fault = none ∧ s.fgCur = none ∧ s.params.rxMode = .polled ∧ s.rxready = false) ∧
    (let s := ready 1 (ring 7 .polled 7 5 [])
     s.fault = none ∧ s.fgCur = none ∧ s.params.rxMode = .polled ∧ s.rxready = true) ∧
    (flying .poll2 idle).fgCur = some .poll2 ∧ (flying (.poll3 1) idle).fgCur = some (.poll3 1) ∧
    (let s := flying (.poll4 1 7) (ring 7 .polled 7 0 [])
     s.fault = none ∧ s.fgCur = some (.poll4 1 7) ∧ (7 + 1) % s.params.n = s.tail) ∧
    (let s := flying (.poll4 1 7) (ring 7 .polled 7 5 [])
     s.fault = none ∧ s.fgCur = some (.poll4 1 7) ∧ (7 + 1) % s.params.n ≠ s.tail) ∧
    (let s := flying (.poll5 1 7 5) (ring 7 .polled 7 5 [])
     s.fault = none ∧ s.fgCur = some (.poll5 1 7 5) ∧ 7 < s.params.n) ∧
    (polling.fault = none ∧ polling.fgCur = some (.poll6 0x0A 7 5)) := by decide

theorem witness_PollAndRxsvcMakeTheSameTransition :
    let s := ready 1 (opened (ring 7 .polled 7 5 [(5, 1), (6, 2)]))
    let s' := ready 1 (opened (ring 7 .interrupt 7 5 [(5, 1), (6, 2)]))
    s.fault = none ∧ s'.fault = none ∧ s.fgCur = none ∧ s.params.rxMode = .polled ∧ s.rxready = true ∧
    s'.params.rxMode = .interrupt ∧ s'.rxie = true ∧ s'.rxready = true ∧ s.params.n = s'.params.n ∧
    s.head = s'.head ∧ s.tail = s'.tail ∧ s.storage = s'.storage ∧ s.rxdata = s'.rxdata ∧ s.head < s.params.n := by
  decide

theorem witness_ArrivingByteIsTakenLostOrOverruns :
    (let s := sched [.rxArrive 0xFF true] idle
     s.fault = none ∧ nextAgent s = .rxArrive 0xFF true ∧ s.rxen = true ∧ s.rxready = false) ∧
    (let s := sched [.rxArrive 0xFF true] State.reset
     s.fault = none ∧ nextAgent s = .rxArrive 0xFF true ∧ s.rxen = false) ∧
    (let s := sched [.rxArrive 0xFF false] (ready 1 idle)
     s.fault = none ∧ nextAgent s = .rxArrive 0xFF false ∧ s.rxen = true ∧ s.rxready = true) := by decide

theorem witness_ByteReadyHasTheStatedWriters_interrupt : ∃ s', step (sched [.interrupt] (ready 1 idle)) = .next s' ∧
    (ready 1 idle).rxready = true ∧ s'.rxready = false := ⟨_, rfl, by decide, by decide⟩

theorem witness_ByteReadyHasTheStatedWriters_poll : ∃ s',
    step (sched [.foreground] (flying .poll2 (ready 1 (ring 7 .polled 0 0 [])))) = .next s' ∧
    (flying .poll2 (ready 1 (ring 7 .polled 0 0 []))).rxready = true ∧ s'.rxready = false := ⟨_, rfl, by decide, by decide⟩

theorem witness_ByteReadyHasTheStatedWriters_close : ∃ s',
    step (sched [.foreground] { prog [⟨0x9000, 0⟩] (ready 1 idle) with
      params := { resetParams with closeClearsRx := true } }) = .next s' ∧ s'.rxready = false := ⟨_, rfl, by decide⟩

theorem witness_ByteReadyHasTheStatedWriters_arrival : ∃ s', step (sched [.rxArrive 7 true] idle) = .next s' ∧
    idle.rxready = false ∧ s'.rxready = true := ⟨_, rfl, by decide, by decide⟩

-- transmit path

theorem witness_WriteMicroStepsInOrder :
    (let s := sending 1 idle
     s.fault = none ∧ s.fgCur = none ∧ s.txen = true ∧ s.txempty = false) ∧
    (idle.fault = none ∧ idle.fgCur = none ∧ idle.txen = true ∧ idle.txempty = true) ∧
    (waiting.fault = none ∧ waiting.fgCur = some (.write1 0x42) ∧ waiting.txempty = false) ∧
    (let s := flying (.write1 0) idle
     s.fault = none ∧ s.fgCur = some (.write1 0) ∧ s.txempty = true) ∧
    (depositing.fault = none ∧ depositing.fgCur = some (.write2 0x42)) := by decide

theorem witness_DrainSendsTheByteWhereEnabled :
    (let s := sched [.txDrain] (sending 1 idle)
     s.fault = none ∧ nextAgent s = .txDrain ∧ s.txen = true ∧ s.txempty = false) ∧
    (let s := sched [.txDrain] (sending 1 State.reset)
     s.fault = none ∧ nextAgent s = .txDrain ∧ ¬ (s.txen = true ∧ s.txempty = false)) ∧
    (let s := sched [.txDrain] idle
     s.fault = none ∧ nextAgent s = .txDrain ∧ ¬ (s.txen = true ∧ s.txempty = false)) := by decide

theorem sched_inv {s : State} (l : List AgentStep) (h : Inv s) : Inv (sched l s) :=
  ⟨h.1, h.2, h.3, h.4, h.5, h.6, h.7, h.8, h.9, h.10⟩

theorem queued_inv {s : State} (l : List Request) (h : Inv s) : Inv (queued l s) :=
  ⟨h.1, h.2, h.3, h.4, h.5, h.6, h.7, h.8, h.9, h.10⟩

theorem witness_TransmittedBytesFollowTheWrites :
    ∃ s s', Inv s ∧ step s = .next s' ∧ s'.fgLog = s.fgLog ++ [⟨.write 0x42, .done⟩] :=
  ⟨sched [.foreground] depositing, _, sched_inv _ depositing_inv, rfl, by decide⟩

theorem witness_WriteWithoutDrainNeverCompletes :
    ∃ s', (sched [.foreground, .interrupt] waiting).fgCur = some (.write1 0x42) ∧
      (sched [.foreground, .interrupt] waiting).txempty = false ∧
      2 ≤ (sched [.foreground, .interrupt] waiting).schedule.length ∧
      AgentStep.txDrain ∉ (sched [.foreground, .interrupt] waiting).schedule ∧
      Sys2Proof.core.run 2 (sched [.foreground, .interrupt] waiting) = .next s' :=
  ⟨_, by decide, by decide, by decide, by decide, rfl⟩

/-- TX_DRAIN and FG in turn. -/
def drainThenForeground (k : Nat) : AgentStep := if k % 2 = 0 then .txDrain else .foreground

/-- The run of `waiting` under that choice: drained, polled, completed, drained again, and then at rest. -/
def fairRun : Nat → State
  | 0 => waiting
  | 1 => { waiting with txempty := true, txline := [0x41] }
  | 2 => depositing
  | 3 => depositing
  | 4 => { depositing with
      txdata := 0x42, txempty := false, fgPc := 2, fgCur := none
      fgLog := [⟨.write 0x41, .done⟩, ⟨.write 0x42, .done⟩] }
  | _ + 5 => { depositing with
      txdata := 0x42, txempty := true, txline := [0x41, 0x42], fgPc := 2, fgCur := none
      fgLog := [⟨.write 0x41, .done⟩, ⟨.write 0x42, .done⟩] }

theorem fairRun_isRun : IsRun drainThenForeground fairRun := by
  intro k
  match k with
  | 0 => rfl
  | 1 => rfl
  | 2 => rfl
  | 3 => rfl
  | 4 => rfl
  | k + 5 =>
    rcases Nat.mod_two_eq_zero_or_one (k + 5) with h | h
    · simp only [drainThenForeground, h]; rfl
    · simp only [drainThenForeground, h]; rfl

theorem witness_WriteCompletesUnderFairDrain :
    IsRun drainThenForeground fairRun ∧ TxDrainFair drainThenForeground fairRun ∧ ForegroundFair drainThenForeground ∧
    Inv (fairRun 0) ∧ (fairRun 0).fgCur = some (.write1 0x42) := by
  refine ⟨fairRun_isRun, fun k => ⟨2 * k, by omega, .inr ?_⟩, fun k => ⟨2 * k + 1, by omega, ?_⟩, waiting_inv, rfl⟩
  · simp [drainThenForeground]
  · simp [drainThenForeground, Nat.add_mod]

/-- The interrupt is taken, and then FG, whose program is empty, is chosen for ever. -/
def interruptThenForeground : Nat → AgentStep
  | 0 => .interrupt
  | _ + 1 => .foreground

/-- The run of `idle` with a byte ready under that choice. -/
def servedRun : Nat → State
  | 0 => ready 0x41 idle
  | _ + 1 => { idle with rxdata := 0x41, head := 4, storage := [(3, 0x41)], prLog := [⟨.rxsvc, .done⟩] }

theorem witness_RequestedInterruptIsServedOrClosedUnderFairness :
    IsRun interruptThenForeground servedRun ∧ RxServiceFair interruptThenForeground servedRun ∧ Inv (servedRun 0) ∧
    interruptRequested (servedRun 0) = true := by
  refine ⟨fun k => ?_, fun k => ⟨k + 1, by omega, .inl rfl⟩, inv_idle (by decide) rfl, by decide⟩
  cases k <;> rfl

theorem witness_TransmitAndReceiveSidesAreSeparate : ∃ s', step (sched [.txDrain] waiting) = .next s' ∧
    s'.txempty ≠ waiting.txempty := ⟨_, rfl, by decide⟩

-- open and close

theorem witness_OpenConfiguresAndEnables :
    State.reset.fault = none ∧ State.reset.fgCur = none ∧ (0xFFFFFFFF : ArgWord) ≠ 0 ∧ (1 : ArgWord) ≠ 0 := by decide

theorem witness_CloseDisablesAndKeepsTheBuffer : full.fault = none ∧ full.fgCur = none := by decide

theorem witness_SecondOpenDecides :
    full.fault = none ∧ full.fgCur = none ∧ (9600 : ArgWord) ≠ 0 ∧ (115200 : ArgWord) ≠ 0 := by decide

theorem witness_OnlyOpenAndCloseWriteTheEnables_open : ∃ s',
    step (sched [.foreground] (prog [⟨0x8000, 9600⟩] State.reset)) = .next s' ∧ s'.opened ≠ State.reset.opened :=
  ⟨_, rfl, by decide⟩

theorem witness_OnlyOpenAndCloseWriteTheEnables_close : ∃ s',
    step (sched [.foreground] (prog [⟨0x9000, 0⟩] idle)) = .next s' ∧ s'.opened ≠ idle.opened :=
  ⟨_, rfl, by decide⟩

-- frames

theorem witness_ConsumerRequestsFrame :
    (∃ t, exec .read reading = .next t ∧ t.tail ≠ reading.tail) ∧ (∃ t, exec .peek idle = .next t) ∧
    (∃ t, exec .avail counting = .next t) ∧ (∃ t, exec .flush flushing = .next t ∧ t.tail ≠ flushing.tail) :=
  ⟨⟨_, rfl, by decide⟩, ⟨_, rfl⟩, ⟨_, rfl⟩, ⟨_, rfl, by decide⟩⟩

theorem witness_ProducerRequestsFrame :
    (Instr.port (.push 1) = .producer ∧ Instr.port .rxsvc = .producer) ∧
    (∃ t, exec (.push 1) idle = .next t ∧ t.head ≠ idle.head) ∧
    (∃ t, exec .rxsvc (ready 1 idle) = .next t ∧ t.head ≠ idle.head) ∧
    (∃ t, exec (.push 1) full = .next t ∧ (full.head + 1) % full.params.n = full.tail) :=
  ⟨by decide, ⟨_, rfl, by decide⟩, ⟨_, rfl, by decide⟩, _, rfl, by decide⟩

theorem witness_PollFrame :
    (∃ t, exec .poll (flying (.poll5 1 7 5) (ring 7 .polled 7 5 [])) = .next t ∧ t.storage ≠ []) ∧
    ∃ t, exec .poll polling = .next t ∧ t.head ≠ polling.head ∧ ∀ v h k, polling.fgCur ≠ some (.poll5 v h k) :=
  ⟨⟨_, rfl, by decide⟩, _, rfl, by decide, fun _ _ _ h => by cases h⟩

theorem witness_TransmitAndControlRequestsFrame :
    (∃ t, exec (.write 0x42) depositing = .next t) ∧ (∃ t, exec (.openLine 9600) idle = .next t) ∧
    (∃ t, exec .close idle = .next t) := ⟨⟨_, rfl⟩, ⟨_, rfl⟩, ⟨_, rfl⟩⟩

-- whole-machine rules

theorem witness_EachCursorHasOneWriter_producer : ∃ s s', Inv s ∧ step s = .next s' ∧ s'.head ≠ s.head :=
  ⟨sched [.producer] (queued [⟨0x1041, 0⟩] idle), _, sched_inv _ (queued_inv _ idle_inv), rfl, by decide⟩

theorem witness_EachCursorHasOneWriter_poll : ∃ s s', Inv s ∧ step s = .next s' ∧ s'.head ≠ s.head :=
  ⟨sched [.foreground] polling, _, sched_inv _ polling_inv, rfl, by decide⟩

theorem witness_EachCursorHasOneWriter_read : ∃ s s', Inv s ∧ step s = .next s' ∧ s'.tail ≠ s.tail :=
  ⟨sched [.foreground] reading, _, sched_inv _ reading_inv, rfl, by decide⟩

theorem witness_EachCursorHasOneWriter_flush : ∃ s s', Inv s ∧ step s = .next s' ∧ s'.tail ≠ s.tail :=
  ⟨sched [.foreground] flushing, _, sched_inv _ flushing_inv, rfl, by decide⟩

theorem witness_LogsGrowAndParametersStay :
    ∃ s', step (sched [.foreground] reading) = .next s' ∧ s'.fgLog ≠ reading.fgLog := ⟨_, rfl, by decide⟩

theorem witness_StorageLaws : Memory.wf [(0, 1), (65535, 2)] = true ∧ (65535 : Nat) ≠ 0 := by decide

-- headline

theorem witness_StepKeepsTheInvariant : ∃ s s', Inv s ∧ step s = .next s' ∧ s'.storage ≠ s.storage :=
  ⟨sched [.interrupt] (ready 1 idle), _, inv_idle (by decide) rfl, rfl, by decide⟩

theorem witness_StepsFollowAFifoQueue :
    ∃ s s', Inv s ∧ step s = .next s' ∧ queueEvent s s' = .taken 0x5A ∧ unreadBytes s = [0x5A] :=
  ⟨sched [.foreground] reading, _, sched_inv _ reading_inv, rfl, by decide, by decide⟩

theorem witness_RunsReplayOnAFifoQueue : ∃ s s', Inv s ∧ Sys2Proof.core.run 2 s = .next s' ∧
    queueEvents 2 s = [.stored 1, .taken 0x5A] :=
  ⟨sched [.interrupt, .foreground] (ready 1 reading), _,
    sched_inv _ ⟨reading_inv.1, reading_inv.2, reading_inv.3, reading_inv.4, reading_inv.5, reading_inv.6, reading_inv.7,
      reading_inv.8, reading_inv.9, reading_inv.10⟩, rfl, by decide⟩

theorem witness_QueueEventsAreThoseOfTheLogs :
    (∃ s s', Inv s ∧ step s = .next s' ∧ s'.fgLog = s.fgLog ++ [⟨.read, .optByte (some 0x5A)⟩]) ∧
    (∃ s s', Inv s ∧ step s = .next s' ∧ s'.fgLog = s.fgLog ++ [⟨.flush, .done⟩]) ∧
    (∃ s s', Inv s ∧ step s = .next s' ∧ s'.prLog = s.prLog ++ [⟨.push 0x41, .stored true⟩]) ∧
    (∃ s s', Inv s ∧ step s = .next s' ∧ s'.prLog = s.prLog ++ [⟨.push 0x41, .stored false⟩]) :=
  ⟨⟨sched [.foreground] reading, _, sched_inv _ reading_inv, rfl, by decide⟩,
    ⟨sched [.foreground] flushing, _, sched_inv _ flushing_inv, rfl, by decide⟩,
    ⟨sched [.producer] (queued [⟨0x1041, 0⟩] idle), _, sched_inv _ (queued_inv _ idle_inv), rfl, by decide⟩,
    ⟨sched [.producer] (queued [⟨0x1041, 0⟩] full), _, sched_inv _ (queued_inv _ full_inv), rfl, by decide⟩⟩

end Sys2Proof.Tests
end

section
/-! PROOFS. The cursor width of R6. -/

namespace Sys2Proof

/-- R6, the one fact about the width: it fits into `w` bits exactly where `w` is at least one bit and `w` bits
have a pattern for each of the `N` slots. -/
theorem Params.cursorWidth_le_iff (p : Params) (w : Nat) : p.cursorWidth ≤ w ↔ 1 ≤ w ∧ p.n ≤ 2 ^ w := by
  unfold Params.cursorWidth
  have hpow : 0 < 2 ^ w := Nat.two_pow_pos w
  split
  case isTrue hn => omega
  case isFalse hn =>
    have hpos : 0 < p.n := Machine.Params.n_pos p
    have hn1 : p.n - 1 ≠ 0 := by omega
    have hlog : (p.n - 1).log2 < w ↔ p.n - 1 < 2 ^ w := Nat.log2_lt hn1
    omega

/-- R6: the model's case split is the spec's formula. -/
theorem Params.cursorWidth_eq_max_clog (p : Params) : p.cursorWidth = max 1 (Nat.clog 2 p.n) :=
  eq_of_forall_ge_iff fun w => by
    rw [p.cursorWidth_le_iff, max_le_iff, Nat.clog_le_iff_le_pow Nat.one_lt_two]

/-- R6: a cursor of this width has room for every slot. -/
theorem Params.n_le_two_pow_cursorWidth (p : Params) : p.n ≤ 2 ^ p.cursorWidth :=
  ((p.cursorWidth_le_iff _).mp le_rfl).2

end Sys2Proof

open Sys2Proof

/-- Settles O31: "`w` bits hold every cursor value" says `N ≤ 2 ^ w`, so each part is a case of
`Params.cursorWidth_le_iff`; at `N = 65536 = 2 ^ 16` the logarithm is exact. -/
theorem cursorWidthIsTheFewestBits : Obligations.CursorWidthIsTheFewestBits := by
  intro p
  refine ⟨p.cursorWidth_eq_max_clog, fun v hv => ?_, fun hN => ?_, fun w hw hfit => ?_⟩
  · exact hv.trans_le p.n_le_two_pow_cursorWidth
  · rw [p.cursorWidth_eq_max_clog, hN, show 65536 = 2 ^ 16 from rfl, Nat.clog_pow 2 16 Nat.one_lt_two]
    rfl
  · exact (p.cursorWidth_le_iff w).mpr ⟨hw, forall_lt_iff_le.mp hfit⟩

end

section
/-! PROOFS. What the cursors say of the unread bytes (R23 to R25). -/

namespace Sys2Proof.Machine

/-- R23, on cursors: no slot lies between them exactly where they are equal. -/
theorem countBetween_eq_zero_iff {p : Params} {h t : Nat} (hh : h < p.n) (ht : t < p.n) :
    countBetween p h t = 0 ↔ h = t := by
  rw [countBetween_eq p h t hh ht]
  split <;> omega

/-- R24, on cursors: all slots but one lie between them exactly where a push would bring the head onto the tail. -/
theorem countBetween_eq_n_sub_one_iff {p : Params} {h t : Nat} (hh : h < p.n) (ht : t < p.n) :
    countBetween p h t = p.n - 1 ↔ nextCursor p h = t := by
  rw [countBetween_eq p h t hh ht, nextCursor_eq p h hh]
  split <;> split <;> omega

theorem countBetween_le (p : Params) (h t : Nat) : countBetween p h t ≤ p.n - 1 :=
  Nat.le_sub_one_of_lt (Nat.mod_lt _ (Params.n_pos p))

/-- R25: slot number `j` of the slots from `t` on. -/
theorem slotsFrom_getElem? (p : Params) {t k j : Nat} (ht : t < p.n) (hj : j < k) :
    (slotsFrom p t k)[j]? = some ((t + j) % p.n) := by
  induction k with
  | zero => omega
  | succ k ih =>
    rw [slotsFrom_succ p t k ht]
    rcases Nat.lt_succ_iff_lt_or_eq.mp hj with hlt | rfl
    · rw [List.getElem?_append_left (by rwa [slotsFrom_length]), ih hlt]
    · rw [List.getElem?_append_right (by rw [slotsFrom_length]), slotsFrom_length, Nat.sub_self]
      rfl

/-- R25, R26: where every unread slot has been written, the unread bytes are the contents of the unread slots, slot
by slot: none is skipped. -/
theorem unreadBytes_map_some {s : State} (hw : unreadWritten s) :
    (unreadBytes s).map some = (slotsFrom s.params s.tail s.unreadCount).map (Memory.read s.storage) := by
  unfold unreadBytes bytesFrom
  rw [List.map_filterMap, List.filterMap_eq_map_iff_forall_eq_some]
  intro i hi
  obtain ⟨b, hb⟩ := Option.isSome_iff_exists.mp (hw i hi)
  rw [hb]
  rfl

theorem unreadBytes_length {s : State} (hw : unreadWritten s) : (unreadBytes s).length = s.unreadCount := by
  simpa [slotsFrom_length] using congrArg List.length (unreadBytes_map_some hw)

/-- R25: the `j`-th oldest unread byte stands `j` slots after the tail. -/
theorem unreadBytes_getElem? {s : State} (hw : unreadWritten s) (ht : s.tail < s.params.n) {j : Nat}
    (hj : j < s.unreadCount) :
    (unreadBytes s)[j]? = Memory.read s.storage ((s.tail + j) % s.params.n) := by
  have hlen : j < (unreadBytes s).length := by rwa [unreadBytes_length hw]
  have hmap := congrArg (·[j]?) (unreadBytes_map_some hw)
  simpa [slotsFrom_getElem? s.params ht hj, List.getElem?_eq_getElem hlen] using hmap

end Sys2Proof.Machine

open Sys2Proof.Machine

/-- Settles O23: the unread bytes are as many as the cursors count, so each part about their number is a fact about
`countBetween`; with one slot both cursors are 0. -/
theorem cursorsTellEmptyFullAndCount : Obligations.CursorsTellEmptyFullAndCount := by
  intro s hinv
  have hh := hinv.head_lt
  have ht := hinv.tail_lt
  have hlen : (unreadBytes s).length = countBetween s.params s.head s.tail := unreadBytes_length hinv.written
  refine ⟨?_, ?_, hlen, ?_, fun j hj => ?_, fun hn => ?_⟩
  · rw [← List.length_eq_zero_iff, hlen, countBetween_eq_zero_iff hh ht]
  · rw [hlen, countBetween_eq_n_sub_one_iff hh ht, nextCursor]
  · rw [hlen]
    exact countBetween_le ..
  · exact unreadBytes_getElem? hinv.written ht (hj.trans_eq hlen)
  · rw [hn, Nat.mod_one]
    omega

end

section
/-! PROOFS. The four enables (R31) as one value, and what a step does to it. -/

namespace Sys2Proof.Machine

/-- R27 to R30: the four enables, in the order of R31. -/
def State.enables (s : State) : Bool × Bool × Bool × Bool := (s.opened, s.rxen, s.txen, s.rxie)

theorem State.enables_eq_iff {s t : State} :
    t.enables = s.enables ↔ t.opened = s.opened ∧ t.rxen = s.rxen ∧ t.txen = s.txen ∧ t.rxie = s.rxie := by
  simp [State.enables]

theorem State.enables_eq_all_iff {s : State} {on : Bool} :
    s.enables = (on, on, on, on) ↔ s.opened = on ∧ s.rxen = on ∧ s.txen = on ∧ s.rxie = on := by
  simp [State.enables]

/-- R31: the four enables are equal. -/
theorem State.enables_equal_iff {s : State} :
    (s.opened = s.rxen ∧ s.rxen = s.txen ∧ s.txen = s.rxie) ↔ ∃ on, s.enables = (on, on, on, on) := by
  constructor
  · rintro ⟨h1, h2, h3⟩
    exact ⟨s.rxie, enables_eq_all_iff.mpr ⟨h1.trans (h2.trans h3), h2.trans h3, h3, rfl⟩⟩
  · rintro ⟨on, h⟩
    obtain ⟨h1, h2, h3, h4⟩ := enables_eq_all_iff.mp h
    exact ⟨h1.trans h2.symm, h2.trans h3.symm, h3.trans h4.symm⟩

@[simp] theorem consumeChoice_enables (s : State) : (consumeChoice s).enables = s.enables := by
  simp [State.enables]

@[simp] theorem pollTxEmpty_enables (b : Byte) (s : State) : (pollTxEmpty b s).enables = s.enables := by
  unfold pollTxEmpty
  split <;> rfl

@[simp] theorem arriveByte_enables (b : Byte) (k : Bool) (s : State) : (arriveByte b k s).enables = s.enables := by
  unfold arriveByte
  split_ifs <;> rfl

@[simp] theorem drainByte_enables (s : State) : (drainByte s).enables = s.enables := by
  unfold drainByte
  split <;> rfl

/-- R116, R117: the requests that write the enables, each with the value it writes. -/
inductive WritesEnables : Instr → Bool → Prop
  | openLine (baud : ArgWord) : WritesEnables (.openLine baud) true
  | close : WritesEnables .close false

/-- R31: an effect leaves the enables alone, or is the completion of the OPEN or CLOSE that writes all four. -/
theorem Effect.enables {s t : State} {a : AgentStep} (h : Effect s a t) :
    t.enables = s.enables ∨
      a = .foreground ∧ ∃ i on, WritesEnables i on ∧ t.fgLog = s.fgLog ++ [⟨i, .done⟩] ∧
        t.enables = (on, on, on, on) := by
  cases h
  case openDone baud hc hi => exact .inr ⟨rfl, _, _, .openLine baud, rfl, rfl⟩
  case closeDone hc hi => exact .inr ⟨rfl, _, _, .close, rfl, rfl⟩
  case writeStart b hc hi ht => exact .inl (pollTxEmpty_enables b s)
  case writePoll b hc => exact .inl (pollTxEmpty_enables b s)
  case arrive b k => exact .inl (arriveByte_enables b k s)
  case drain => exact .inl (drainByte_enables s)
  all_goals exact .inl rfl

/-- R31, of a step of the machine. -/
theorem step_enables {s s' : State} (h : step s = .next s') :
    s'.enables = s.enables ∨
      nextAgent s = .foreground ∧ ∃ i on, WritesEnables i on ∧ s'.fgLog = s.fgLog ++ [⟨i, .done⟩] ∧
        s'.enables = (on, on, on, on) := by
  simpa using (step_effect h).2.enables

end Sys2Proof.Machine

open Sys2Proof Sys2Proof.Machine

/-- Settles O48, from the two cases of `step_enables`: enables left alone stay equal and are not changed; written
ones are equal, and the request that wrote them is OPEN or CLOSE. -/
theorem onlyOpenAndCloseWriteTheEnables : Obligations.OnlyOpenAndCloseWriteTheEnables := by
  refine ⟨fun p u prog queue sched => ⟨rfl, rfl, rfl⟩, fun s s' h => ?_⟩
  rw [State.enables_equal_iff, State.enables_equal_iff]
  rcases step_enables h with hkept | ⟨hfg, i, on, hwrites, hlog, hall⟩
  · refine ⟨fun heq => hkept ▸ heq, fun hchanged => ?_⟩
    have hsame := State.enables_eq_iff.mp hkept
    tauto
  · refine ⟨fun _ => ⟨on, hall⟩, fun _ => ⟨hfg, ?_⟩⟩
    have hvalues := State.enables_eq_all_iff.mp hall
    cases hwrites with
    | openLine baud => exact .inl ⟨⟨baud, hlog⟩, hvalues⟩
    | close => exact .inr ⟨hlog, hvalues⟩

end

section
/-! PROOFS. The micro-steps of READ, PEEK, AVAIL and FLUSH in program order (R59 to R62), and why no request of PR
reuses the slot a READ is about to read. -/

namespace Sys2Proof.Machine

/-- Slots are independent: a write leaves every other slot alone. -/
theorem Memory.read_write_of_ne {i j : Nat} (hij : i ≠ j) (m : Memory) (b : Byte) :
    Memory.read (Memory.write m i b) j = Memory.read m j := by
  induction m with
  | nil => simp [Memory.write, Memory.read_cons, hij]
  | cons c m ih =>
    unfold Memory.write
    split_ifs with hlt heq
    · rw [Memory.read_cons, if_neg hij]
    · rw [Memory.read_cons, Memory.read_cons, if_neg hij, if_neg (heq ▸ hij)]
    · rw [Memory.read_cons, Memory.read_cons, ih]

theorem loadSlot_of_read {req : Instr} {i : Nat} {s : State} {k : Byte → Out} {v : Byte} (hi : i < s.params.n)
    (hr : Memory.read s.storage i = some v) : loadSlot req i s k = k v := by
  simp [loadSlot, hi, hr]

/-- R64: a whole request of PR, as an effect of the producer's step. -/
theorem exec_producer_effect {s t : State} {i : Instr} (hp : i.port = .producer) (h : exec i s = .next t) :
    Effect s .producer t := by
  cases i <;> try cases hp
  case push b =>
    obtain ⟨-, h⟩ := unlessFaulted_next h
    split at h
    · exact .of_raise _ (by simp) h
    · next hm =>
      have hm : s.params.rxMode = .interrupt := by cases hx : s.params.rxMode <;> simp_all
      rcases pushCore_next h with ⟨hf, h⟩ | ⟨hf, hh, h⟩
      · cases h; exact .pushDrop b s.prQueue hm hf
      · cases h; exact .pushStore b s.prQueue hm hf hh
  case rxsvc => exact execRxsvc_effect (.inl rfl) h t.prQueue (by rintro rfl; rfl)

/-- R89: the producer stores at the head and nowhere else. -/
theorem Effect.producer_read_storage {s t : State} (h : Effect s .producer t) {j : Nat} (hj : s.head ≠ j) :
    Memory.read t.storage j = Memory.read s.storage j := by
  cases h
  case pushStore => exact Memory.read_write_of_ne hj ..
  case rxsvcStore => exact Memory.read_write_of_ne hj ..
  all_goals rfl

/-- R66: a head copied by the request in flight that differs from the tail shows that the buffer is still not empty. -/
theorem headCopyOk.head_ne_tail {s : State} {h : Nat} (hc : headCopyOk s h) (ht : s.tail < s.params.n)
    (hne : h ≠ s.tail) : s.head ≠ s.tail := by
  obtain ⟨hlt, hcount⟩ := hc
  intro heq
  have hempty : s.unreadCount = 0 := (countBetween_eq_zero_iff (heq ▸ ht) ht).mpr heq
  exact hne ((countBetween_eq_zero_iff hlt ht).mp (Nat.le_zero.mp (hempty ▸ hcount)))

/-- R59: while a READ is about to read its slot, that slot is not the one the producer writes next. -/
theorem Inv.head_ne_of_read3 {s : State} (hinv : Inv s) {h t : Nat} (hc : s.fgCur = some (.read3 h t)) :
    s.head ≠ t := by
  have hok := hinv.in_flight
  simp only [inFlightOk, hc] at hok
  obtain ⟨hcopy, rfl, hne⟩ := hok
  exact hcopy.head_ne_tail hinv.tail_lt hne

end Sys2Proof.Machine

open Sys2Proof Sys2Proof.Machine

/-- Settles O18: each micro-step is its branch of R91; the slot to be read is the tail's, the producer stores at the
head, and the two differ as long as the copies `h` and `t` do. -/
theorem readMicroStepsInOrder : Obligations.ReadMicroStepsInOrder := by
  intro s hs
  have hexec : exec .read s = execRead s := rfl
  simp only [hexec, execRead, unlessFaulted_none hs]
  refine ⟨fun hc => ?start, fun h hc hne => ?tail, fun h hc he => ?empty, fun h t v hc ht hv => ?load,
    fun h t v hc => ?done, fun h t i u hinv hc hp hi => ?producer⟩
  case start => simp [hc, goTo]
  case tail => simp [hc, hne, goTo]
  case empty => simp [hc, he, fgComplete]
  case load => simp [hc, loadSlot_of_read ht hv, goTo]
  case done => simp [hc, fgComplete, advanceTail, nextCursor]
  case producer => exact (exec_producer_effect hp hi).producer_read_storage (hinv.head_ne_of_read3 hc)

/-- Settles O19: each micro-step is its branch of R92, and none updates more than `goTo` or `fgComplete` does. -/
theorem peekMicroStepsInOrder : Obligations.PeekMicroStepsInOrder := by
  intro s hs
  simp only [exec, execPeek, unlessFaulted_none hs]
  refine ⟨fun hc => ?start, fun h hc hne => ?tail, fun h hc he => ?empty, fun h t v hc ht hv => ?done⟩
  case start => simp [hc, goTo]
  case tail => simp [hc, hne, goTo]
  case empty => simp [hc, he, fgComplete]
  case done => simp [hc, loadSlot_of_read ht hv, fgComplete]

/-- Settles O20: each micro-step is its branch of R93; the count is the distance from the tail to the copied head. -/
theorem availMicroStepsInOrder : Obligations.AvailMicroStepsInOrder := by
  intro s hs
  simp only [exec, execAvail, unlessFaulted_none hs]
  refine ⟨fun hc => ?start, fun h hc => ?done⟩
  case start => simp [hc, goTo]
  case done => simp [hc, fgComplete, countBetween]

/-- Settles O21: each micro-step is its branch of R94; the second writes the copied head into the tail. -/
theorem flushMicroStepsInOrder : Obligations.FlushMicroStepsInOrder := by
  intro s hs
  simp only [exec, execFlush, unlessFaulted_none hs]
  refine ⟨fun hc => ?start, fun h hc => ?done⟩
  case start => simp [hc, goTo]
  case done => simp [hc, fgComplete]

end

section
/-! PROOFS. Decoding by the fields of a request word (R78, R79): the decoder faults exactly where a check of WellFormed
fails, and the first check that fails names the fault. -/

namespace Sys2Proof

/-! ### The checks of WellFormed, by the fields of R73 -/

theorem Request.opcodeDefined_iff (r : Request) : r.opcodeDefined = true ↔ 1 ≤ r.op.toNat ∧ r.op.toNat ≤ 0xA := by
  have hcodes : ∀ op : BitVec 4, definedOpcodes.contains op = true ↔ 1 ≤ op.toNat ∧ op.toNat ≤ 0xA := by decide
  exact hcodes r.op

/-- R73, R74: the reserved bits, `rsv` and outside format B also `imm8`, are clear. -/
theorem Request.reservedClear_iff (r : Request) :
    (r.reservedZero && r.operandAllowed) = true ↔
      ¬ (r.rsv ≠ 0 ∨ (r.op.toNat ≠ 0x1 ∧ r.op.toNat ≠ 0xA ∧ r.imm8 ≠ 0)) := by
  simp [reservedZero, operandAllowed, rsv, op, imm8, BitVec.toNat_eq, or_iff_not_imp_left]

theorem Request.portFits_iff (port : Port) (r : Request) :
    r.portFits port = true ↔ ((r.op.toNat = 0x1 ∨ r.op.toNat = 0x2) ↔ port = .producer) := by
  unfold portFits op
  rw [beq_iff_eq, Bool.eq_iff_iff]
  simp [BitVec.toNat_eq]

/-! ### The checks of WellFormed, by the row of the opcode map the code spells -/

theorem Operation.ofCode_isSome (op : BitVec 4) : (ofCode op).isSome = definedOpcodes.contains op := by
  revert op
  decide

theorem Operation.code_of_ofCode {op : BitVec 4} {o : Operation} (h : ofCode op = some o) : o.code = op := by
  have hall : ∀ op : BitVec 4, ∀ o ∈ ofCode op, o.code = op := by decide
  exact hall op o h

theorem Operation.format_eq_b_iff (o : Operation) : o.format = .b ↔ o.code = 0x1#4 ∨ o.code = 0xA#4 := by
  cases o <;> decide

theorem Operation.port_eq_producer_iff (o : Operation) : o.port = .producer ↔ o.code = 0x1#4 ∨ o.code = 0x2#4 := by
  cases o <;> decide

theorem Request.operandAllowed_iff_of_ofCode {r : Request} {o : Operation} (h : Operation.ofCode r.op = some o) :
    r.operandAllowed = true ↔ o.format = .b ∨ r.imm8 = 0#8 := by
  rw [o.format_eq_b_iff, Operation.code_of_ofCode h]
  simp [operandAllowed, op, imm8]

theorem Request.portFits_iff_of_ofCode {port : Port} {r : Request} {o : Operation}
    (h : Operation.ofCode r.op = some o) : r.portFits port = true ↔ o.port = port := by
  have hproducer : (r.op == 0x1#4 || r.op == 0x2#4) = decide (o.port = .producer) := by
    rw [Bool.eq_iff_iff, decide_eq_true_iff, o.port_eq_producer_iff, Operation.code_of_ofCode h]
    simp
  change ((r.op == 0x1#4 || r.op == 0x2#4) == decide (port = .producer)) = true ↔ o.port = port
  rw [hproducer]
  cases o.port <;> cases port <;> decide

/-! ### The decoder -/

/-- R79: the fault of the first check of WellFormed that fails. -/
def Request.firstFault (port : Port) (r : Request) : Option FaultCode :=
  if r.opcodeDefined then
    if r.reservedZero && r.operandAllowed then
      if r.portFits port then none else some .wrongPort
    else some .reservedBits
  else some .illegalOpcode

/-- R79: the decoder answers the fault of the first check that fails, and an instruction where none does. -/
theorem decode_eq_firstFault_elim (port : Port) (r : Request) :
    ∃ i, decode port r = (r.firstFault port).elim (.ok i) .error := by
  have hdefined : r.opcodeDefined = (Operation.ofCode r.op).isSome := (Operation.ofCode_isSome r.op).symm
  unfold decode Request.firstFault
  rw [hdefined]
  cases ho : Operation.ofCode r.op with
  | none => exact ⟨.read, rfl⟩
  | some o =>
    refine ⟨o.assemble r, ?_⟩
    have hzero : r.reservedZero = true ↔ r.rsv = 0#4 := beq_iff_eq
    have hallowed := Request.operandAllowed_iff_of_ofCode ho
    have hfits := Request.portFits_iff_of_ofCode (port := port) ho
    by_cases hz : r.rsv = 0#4
    · by_cases ha : o.format = .b ∨ r.imm8 = 0#8
      · by_cases hp : o.port = port <;> simp [hzero, hallowed, hfits, hz, ha, hp, ← not_or]
      · simp [hzero, hallowed, hz, ha, ← not_or]
    · simp [hzero, hz]

theorem decode_error_iff {port : Port} {r : Request} {code : FaultCode} :
    decode port r = .error code ↔ r.firstFault port = some code := by
  obtain ⟨i, hi⟩ := decode_eq_firstFault_elim port r
  rw [hi]
  cases r.firstFault port <;> simp

theorem decode_ok_iff {port : Port} {r : Request} :
    (∃ i, decode port r = .ok i) ↔ r.firstFault port = none := by
  obtain ⟨i, hi⟩ := decode_eq_firstFault_elim port r
  rw [hi]
  cases r.firstFault port <;> simp

/-! ### Which check fails first -/

theorem Request.firstFault_eq_illegalOpcode_iff {port : Port} {r : Request} :
    r.firstFault port = some .illegalOpcode ↔ ¬ r.opcodeDefined = true := by
  unfold firstFault
  split_ifs <;> simp [*]

theorem Request.firstFault_eq_reservedBits_iff {port : Port} {r : Request} :
    r.firstFault port = some .reservedBits ↔
      r.opcodeDefined = true ∧ ¬ (r.reservedZero && r.operandAllowed) = true := by
  unfold firstFault
  split_ifs <;> simp [*]

theorem Request.firstFault_eq_wrongPort_iff {port : Port} {r : Request} :
    r.firstFault port = some .wrongPort ↔
      r.opcodeDefined = true ∧ (r.reservedZero && r.operandAllowed) = true ∧ ¬ r.portFits port = true := by
  unfold firstFault
  split_ifs <;> simp [*]

theorem Request.firstFault_eq_none_iff {port : Port} {r : Request} :
    r.firstFault port = none ↔
      r.opcodeDefined = true ∧ (r.reservedZero && r.operandAllowed) = true ∧ r.portFits port = true := by
  unfold firstFault
  split_ifs <;> simp [*]

theorem Request.wellFormed_iff_firstFault {port : Port} {r : Request} :
    r.wellFormed port = true ↔ r.firstFault port = none := by
  rw [firstFault_eq_none_iff]
  simp [wellFormed, and_assoc]

end Sys2Proof

open Sys2Proof

/-- Settles O3: each clause says which check of WellFormed fails first, in the fields of R73. -/
theorem decodeFaultsByTheFieldsInOrder : Obligations.DecodeFaultsByTheFieldsInOrder := by
  intro port r op rsv imm8 reserved onProducer
  have hdefined : r.opcodeDefined = true ↔ 1 ≤ op ∧ op ≤ 0xA := r.opcodeDefined_iff
  have hclear : (r.reservedZero && r.operandAllowed) = true ↔ ¬ reserved := r.reservedClear_iff
  have hfits : r.portFits port = true ↔ (onProducer ↔ port = .producer) := r.portFits_iff port
  refine ⟨?illegal, ?reserved, ?wrongPort, ?decodes, ?wellFormed⟩
  case illegal =>
    rw [decode_error_iff, Request.firstFault_eq_illegalOpcode_iff, hdefined]
    omega
  case reserved => rw [decode_error_iff, Request.firstFault_eq_reservedBits_iff, hdefined, hclear, not_not]
  case wrongPort => rw [decode_error_iff, Request.firstFault_eq_wrongPort_iff, hdefined, hclear, hfits]
  case decodes => rw [decode_ok_iff, Request.firstFault_eq_none_iff, hdefined, hclear, hfits]
  case wellFormed => rw [decode_ok_iff, Request.wellFormed_iff_firstFault]

end

section
/-! PROOFS. The wire forms of results (R81 to R83). -/

namespace Sys2Proof.Machine

/-- R81: `zext_16(b)` is `b` under a zero byte. -/
theorem Result.res_optByte_some (b : Byte) : (Result.optByte (some b)).res = some (0x00#8 ++ b) :=
  congrArg some (BitVec.setWidth_eq_append (by decide))

/-- R81: the word of `None` is the word of no byte. -/
theorem Result.res_optByte_some_ne_none (b : Byte) : (Result.optByte (some b)).res ≠ (Result.optByte none).res := by
  intro h
  have hword : b.setWidth 16 = 0xFFFF#16 := Option.some.inj h
  have hnat := congrArg BitVec.toNat hword
  have hb := b.isLt
  simp at hnat
  omega

theorem Params.n_le (p : Params) : p.n ≤ 65536 := p.slotsLess1.isLt

/-- R83: the count between two cursors fits into `RES`. -/
theorem countBetween_toNat_ofNat (p : Params) (h t : Nat) :
    (BitVec.ofNat 16 (countBetween p h t)).toNat = countBetween p h t := by
  have hcount := countBetween_le p h t
  have hn := Params.n_le p
  exact Nat.mod_eq_of_lt (by omega)

end Sys2Proof.Machine

open Sys2Proof.Machine

/-- Settles O5: the words are those of `Result.res`; a byte stays below 0xFFFF, and a count stays below `N`. -/
theorem resultWordsAsEncoded : Obligations.ResultWordsAsEncoded := by
  refine ⟨fun b => ⟨rfl, Result.res_optByte_some b⟩, rfl, rfl, by decide, Result.res_optByte_some_ne_none, rfl, rfl,
    fun p h t _ _ => ?_⟩
  exact ⟨_, rfl, countBetween_toNat_ofNat p h t, countBetween_le p h t, Nat.sub_le_of_le_add (Params.n_le p)⟩

end

section
/-! PROOFS. The queue the ring buffer holds: a store at the head appends a byte to the unread ones (R25, R89), what a
FLUSH, an AVAIL or a PUSH run alone does (R90, R93, R94), and N - 1 PUSHes in a row (R96, R98). -/

namespace Sys2Proof.Machine

/-- A slot holds the byte last written to it. -/
theorem Memory.read_write_same (m : Memory) (i : Nat) (b : Byte) : Memory.read (Memory.write m i b) i = some b := by
  induction m with
  | nil => simp [Memory.write, Memory.read_cons]
  | cons c m ih =>
    unfold Memory.write
    split_ifs with hlt heq
    · simp [Memory.read_cons]
    · simp [Memory.read_cons]
    · rw [Memory.read_cons, if_neg (Ne.symm heq), ih]

/-- R86, R93: the head stands as many slots after the tail as there are unread bytes. -/
theorem tail_add_countBetween {p : Params} {h t : Nat} (hh : h < p.n) (ht : t < p.n) :
    (t + countBetween p h t) % p.n = h := by
  rw [countBetween_eq p h t hh ht]
  split
  case isTrue hle => rw [Nat.add_sub_cancel' hle, Nat.mod_eq_of_lt hh]
  case isFalse hlt => rw [Nat.add_sub_cancel' (by omega), Nat.add_mod_left, Nat.mod_eq_of_lt hh]

/-- R25: the slot at the head holds no unread byte. -/
theorem head_notMem_slotsFrom {p : Params} {h t : Nat} (hh : h < p.n) (ht : t < p.n) :
    h ∉ slotsFrom p t (countBetween p h t) := by
  rw [mem_slotsFrom p t _ h ht]
  rintro ⟨j, hj, heq⟩
  have hcount := tail_add_countBetween hh ht
  have hlt : countBetween p h t < p.n := Nat.mod_lt _ (Params.n_pos p)
  have hsame : (t + j) % p.n = (t + countBetween p h t) % p.n := by rw [← heq, hcount]
  have hmod : j % p.n = countBetween p h t % p.n := Nat.ModEq.add_left_cancel' t hsame
  rw [Nat.mod_eq_of_lt (hj.trans hlt), Nat.mod_eq_of_lt hlt] at hmod
  omega

/-- R89: where the buffer is not full, a head moved on by one slot leaves one more slot behind it. -/
theorem countBetween_nextCursor {p : Params} {h t : Nat} (hh : h < p.n) (ht : t < p.n) (hfull : nextCursor p h ≠ t) :
    countBetween p (nextCursor p h) t = countBetween p h t + 1 := by
  rw [countBetween_eq p _ t (nextCursor_lt p h) ht, countBetween_eq p h t hh ht]
  rw [nextCursor_eq p h hh] at hfull ⊢
  by_cases hwrap : h + 1 = p.n
  · rw [if_pos hwrap] at hfull ⊢
    split <;> split <;> omega
  · rw [if_neg hwrap] at hfull ⊢
    split <;> split <;> omega

/-- R25, R89: storing a byte at the head and moving the head on appends the byte to the unread ones. -/
theorem bytesFrom_write_head {p : Params} {h t : Nat} (hh : h < p.n) (ht : t < p.n) (hfull : nextCursor p h ≠ t)
    (m : Memory) (b : Byte) :
    bytesFrom p (Memory.write m h b) t (countBetween p (nextCursor p h) t) =
      bytesFrom p m t (countBetween p h t) ++ [b] := by
  have hold : ∀ i ∈ slotsFrom p t (countBetween p h t), Memory.read (Memory.write m h b) i = Memory.read m i :=
    fun i hi => Memory.read_write_of_ne (ne_of_mem_of_not_mem hi (head_notMem_slotsFrom hh ht)).symm m b
  unfold bytesFrom
  rw [countBetween_nextCursor hh ht hfull, slotsFrom_succ p t _ ht, tail_add_countBetween hh ht,
    List.filterMap_append, List.filterMap_congr hold]
  simp [Memory.read_write_same]

theorem pushCore_of_full {s : State} (hfull : nextCursor s.params s.head = s.tail) (b : Byte)
    (k : Bool → State → Out) : pushCore b s k = k false s := by
  simp [pushCore, pushFull, hfull]

theorem pushCore_of_not_full {s : State} (hh : s.head < s.params.n) (hfull : nextCursor s.params s.head ≠ s.tail)
    (b : Byte) (k : Bool → State → Out) :
    pushCore b s k = k true { s with
      storage := Memory.write s.storage s.head b, head := nextCursor s.params s.head } := by
  simp [pushCore, pushFull, hfull, storeSlot, hh, advanceHead]

/-- R90 where PUSH is admitted. -/
theorem exec_push_eq_pushCore {s : State} (hs : s.fault = none) (hm : s.params.rxMode = .interrupt) (b : Byte) :
    exec (.push b) s = pushCore b s fun ok t => .next (prComplete (.push b) (.stored ok) t) := by
  simp [exec, execPush, unlessFaulted_none hs, hm]

theorem execTimes_succ_of_next {i : Instr} {s t : State} (h : exec i s = .next t) (k : Nat) :
    execTimes i (k + 1) s = execTimes i k t := by
  rw [execTimes, h]

theorem pushEach_cons_of_next {b : Byte} {s t : State} (h : exec (.push b) s = .next t) (bs : List Byte) :
    pushEach (b :: bs) s = pushEach bs t := by
  rw [pushEach, h]

/-- R94: FLUSH with no other agent's step inside it. -/
theorem execTimes_flush {s : State} (hs : s.fault = none) (hc : s.fgCur = none) :
    execTimes .flush 2 s = .next (fgComplete .flush .done { s with tail := s.head }) := by
  have hstart : exec .flush s = .next (goTo (.flush2 s.head) s) := (flushMicroStepsInOrder s hs).1 hc
  rw [execTimes_succ_of_next hstart]
  exact execTimes_succ_of_next ((flushMicroStepsInOrder (goTo (.flush2 s.head) s) hs).2 s.head rfl) 0

/-- R93: AVAIL with no other agent's step inside it. -/
theorem execTimes_avail {s : State} (hs : s.fault = none) (hc : s.fgCur = none) :
    execTimes .avail 2 s = .next (fgComplete .avail (.count s.unreadCount) s) := by
  have hstart : exec .avail s = .next (goTo (.avail2 s.head) s) := (availMicroStepsInOrder s hs).1 hc
  rw [execTimes_succ_of_next hstart]
  exact execTimes_succ_of_next ((availMicroStepsInOrder (goTo (.avail2 s.head) s) hs).2 s.head rfl) 0

/-- R96: `t` is `s` after PUSHes of `bs` that all stored their byte. -/
structure Pushed (bs : List Byte) (s t : State) : Prop where
  frame : t = { s with storage := t.storage, head := t.head, prLog := t.prLog }
  head_lt : t.head < t.params.n
  count : t.unreadCount = s.unreadCount + bs.length
  unread : unreadBytes t = unreadBytes s ++ bs
  log : t.prLog = s.prLog ++ bs.map fun b => ⟨.push b, .stored true⟩

theorem Pushed.nil {s : State} (hh : s.head < s.params.n) : Pushed [] s s where
  frame := rfl
  head_lt := hh
  count := rfl
  unread := (List.append_nil _).symm
  log := (List.append_nil _).symm

theorem Pushed.trans {bs cs : List Byte} {s t u : State} (hst : Pushed bs s t) (htu : Pushed cs t u) :
    Pushed (bs ++ cs) s u where
  frame := htu.frame.trans (by rw [hst.frame])
  head_lt := htu.head_lt
  count := by rw [htu.count, hst.count, List.length_append, Nat.add_assoc]
  unread := by rw [htu.unread, hst.unread, List.append_assoc]
  log := by rw [htu.log, hst.log, List.map_append, List.append_assoc]

theorem Pushed.params_eq {bs : List Byte} {s t : State} (h : Pushed bs s t) : t.params = s.params := by rw [h.frame]
theorem Pushed.tail_eq {bs : List Byte} {s t : State} (h : Pushed bs s t) : t.tail = s.tail := by rw [h.frame]
theorem Pushed.fault_eq {bs : List Byte} {s t : State} (h : Pushed bs s t) : t.fault = s.fault := by rw [h.frame]
theorem Pushed.fgCur_eq {bs : List Byte} {s t : State} (h : Pushed bs s t) : t.fgCur = s.fgCur := by rw [h.frame]
theorem Pushed.fgLog_eq {bs : List Byte} {s t : State} (h : Pushed bs s t) : t.fgLog = s.fgLog := by rw [h.frame]

/-- R89, R90: a PUSH into a buffer that is not full. -/
theorem exec_push_pushed {s : State} (hs : s.fault = none) (hm : s.params.rxMode = .interrupt)
    (hh : s.head < s.params.n) (ht : s.tail < s.params.n) (hfull : nextCursor s.params s.head ≠ s.tail) (b : Byte) :
    ∃ t, exec (.push b) s = .next t ∧ Pushed [b] s t := by
  refine ⟨_, (exec_push_eq_pushCore hs hm b).trans (pushCore_of_not_full hh hfull b _), ?_⟩
  exact {
    frame := rfl
    head_lt := nextCursor_lt ..
    count := countBetween_nextCursor hh ht hfull
    unread := bytesFrom_write_head hh ht hfull ..
    log := rfl }

/-- R89, R90: a PUSH into a full buffer. -/
theorem exec_push_of_full {s : State} (hs : s.fault = none) (hm : s.params.rxMode = .interrupt)
    (hfull : nextCursor s.params s.head = s.tail) (b : Byte) :
    exec (.push b) s = .next (prComplete (.push b) (.stored false) s) :=
  (exec_push_eq_pushCore hs hm b).trans (pushCore_of_full hfull b _)

/-- R96: PUSHes of no more bytes than the buffer has room for all store their byte. -/
theorem pushEach_pushed {s : State} {bs : List Byte} (hs : s.fault = none) (hm : s.params.rxMode = .interrupt)
    (hh : s.head < s.params.n) (ht : s.tail < s.params.n) (hroom : s.unreadCount + bs.length ≤ s.params.n - 1) :
    ∃ t, pushEach bs s = .next t ∧ Pushed bs s t := by
  induction bs generalizing s with
  | nil => exact ⟨s, rfl, .nil hh⟩
  | cons b bs ih =>
    have hlt : countBetween s.params s.head s.tail < s.params.n - 1 :=
      Nat.lt_of_lt_of_le (Nat.lt_add_of_pos_right (Nat.succ_pos _)) hroom
    have hfull : nextCursor s.params s.head ≠ s.tail := fun heq =>
      hlt.ne ((countBetween_eq_n_sub_one_iff hh ht).mpr heq)
    obtain ⟨t, hexec, hone⟩ := exec_push_pushed hs hm hh ht hfull b
    have hroom' : t.unreadCount + bs.length ≤ t.params.n - 1 := by
      rw [hone.count, hone.params_eq, Nat.add_assoc, Nat.add_comm [b].length]
      exact hroom
    obtain ⟨u, heach, hrest⟩ := ih (hone.fault_eq.trans hs) (hone.params_eq ▸ hm) hone.head_lt
      (by rwa [hone.tail_eq, hone.params_eq]) hroom'
    exact ⟨u, (pushEach_cons_of_next hexec bs).trans heach, hone.trans hrest⟩

end Sys2Proof.Machine

open Sys2Proof Sys2Proof.Machine

/-- Settles O27: FLUSH leaves the tail at the head, where AVAIL counts no slot between the two. -/
theorem flushThenAvailIsZero : Obligations.FlushThenAvailIsZero := by
  intro s hinv hs hc
  have hzero : countBetween s.params s.head s.head = 0 := (countBetween_eq_zero_iff hinv.head_lt hinv.head_lt).mpr rfl
  refine ⟨_, _, execTimes_flush hs hc, execTimes_avail hs rfl, rfl, ?_⟩
  simp [State.unreadCount, hzero]

/-- Settles O29: the buffer counts no byte at first and one more after each PUSH, and it is full at `N - 1`. -/
theorem pushesSucceedUntilTheBufferIsFull : Obligations.PushesSucceedUntilTheBufferIsFull := by
  intro s bs hinv hs hm hempty hlen
  have hnone : s.unreadCount = 0 := (countBetween_eq_zero_iff hinv.head_lt hinv.tail_lt).mpr hempty
  have hbytes : unreadBytes s = [] := (cursorsTellEmptyFullAndCount s hinv).1.mpr hempty
  obtain ⟨t, heach, hall⟩ := pushEach_pushed hs hm hinv.head_lt hinv.tail_lt (by rwa [hnone, Nat.zero_add])
  have hcount : t.unreadCount = bs.length := by rw [hall.count, hnone, Nat.zero_add]
  have hfault : t.fault = none := hall.fault_eq.trans hs
  refine ⟨t, heach, by rw [hall.unread, hbytes, List.nil_append], hall.log, fun hc => ?avail, fun hmax b => ?last⟩
  case avail =>
    refine ⟨_, execTimes_avail hfault (hall.fgCur_eq.trans hc), ?_⟩
    simp [hall.fgLog_eq, hcount]
  case last =>
    have htail : t.tail < t.params.n := by rw [hall.tail_eq, hall.params_eq]; exact hinv.tail_lt
    have hfull : nextCursor t.params t.head = t.tail :=
      (countBetween_eq_n_sub_one_iff hall.head_lt htail).mp (hcount.trans (by rw [hmax, hall.params_eq]))
    refine ⟨_, exec_push_of_full hfault (hall.params_eq ▸ hm) hfull b, rfl, fun hc => ?_⟩
    refine ⟨_, execTimes_avail hfault (hall.fgCur_eq.trans hc), ?_⟩
    have hsame : (prComplete (.push b) (.stored false) t).unreadCount = bs.length := hcount
    simp [hall.fgLog_eq, hsame]

end

section
/-! PROOFS. Masking against modulo (R87). -/

open Sys2Proof Sys2Proof.Machine

/-- Settles O30: of a number other than a power of two, `N AND (N - 1)` keeps the highest bit, so masking does not
bring the cursor `N - 1` round to 0. -/
theorem maskingIsModuloForPowersOfTwoOnly : Obligations.MaskingIsModuloForPowersOfTwoOnly := by
  intro p
  refine ⟨fun k hk x => ?pow, fun hpow => ?notPow⟩
  case pow => rw [hk, Nat.and_two_pow_sub_one_eq_mod]
  case notPow =>
    have hpos : 0 < p.n := Params.n_pos p
    have hsucc : p.n - 1 + 1 = p.n := Nat.sub_add_cancel hpos
    have hmask : p.n &&& (p.n - 1) ≠ 0 := fun hzero =>
      have ⟨k, hk⟩ := (Nat.and_sub_one_eq_zero_iff_isPowerOfTwo hpos.ne').mp hzero
      hpow k hk
    refine ⟨p.n - 1, Nat.sub_one_lt hpos.ne', ?_⟩
    rw [nextCursor, hsucc, Nat.mod_self]
    exact hmask.symm

end

section
/-! PROOFS. The receive path (41_receive.md): what an arriving byte does (R100 to R102), the state `ServiceRx` leaves
(R103), and that RXSVC and a whole POLL both leave it (R107). -/

namespace Sys2Proof.Machine

theorem step_rxArrive {s : State} {b : Byte} {keepNew : Bool} (hs : s.fault = none)
    (ha : nextAgent s = .rxArrive b keepNew) : step s = .next (arriveByte b keepNew (consumeChoice s)) := by
  rw [step, takeStep, unlessFaulted_none hs, ha, agentStep]

theorem arriveByte_of_disabled {s : State} (hen : s.rxen = false) (b : Byte) (keepNew : Bool) :
    arriveByte b keepNew s = s := by
  simp [arriveByte, hen]

theorem arriveByte_of_free {s : State} (hen : s.rxen = true) (hr : s.rxready = false) (b : Byte) (keepNew : Bool) :
    arriveByte b keepNew s = receiveByte b s := by
  simp [arriveByte, hen, hr]

theorem arriveByte_of_overrun {s : State} (hen : s.rxen = true) (hr : s.rxready = true) (b : Byte) (keepNew : Bool) :
    arriveByte b keepNew s = { s with rxdata := if keepNew then b else s.rxdata } := by
  rw [arriveByte, if_pos hen, if_pos hr]
  cases keepNew <;> rfl

/-- R103: the state after `ServiceRx` with no other agent's step inside it: the byte is taken, and stored where the
buffer is not full. -/
def afterServiceRx (s : State) : State :=
  if nextCursor s.params s.head = s.tail then clearRxReady s
  else { clearRxReady s with
    storage := Memory.write s.storage s.head s.rxdata, head := nextCursor s.params s.head }

theorem serviceRx_eq {s : State} (hh : s.head < s.params.n) (k : State → Out) :
    serviceRx s k = k (afterServiceRx s) := by
  unfold serviceRx afterServiceRx
  split
  case isTrue hfull => exact pushCore_of_full (s := clearRxReady s) hfull ..
  case isFalse hroom => exact pushCore_of_not_full (s := clearRxReady s) hh hroom ..

theorem afterServiceRx_head (s : State) :
    (afterServiceRx s).head = if nextCursor s.params s.head = s.tail then s.head else nextCursor s.params s.head := by
  unfold afterServiceRx; split <;> rfl

@[simp] theorem afterServiceRx_tail (s : State) : (afterServiceRx s).tail = s.tail := by
  unfold afterServiceRx; split <;> rfl

theorem afterServiceRx_storage (s : State) :
    (afterServiceRx s).storage =
      if nextCursor s.params s.head = s.tail then s.storage else Memory.write s.storage s.head s.rxdata := by
  unfold afterServiceRx; split <;> rfl

@[simp] theorem afterServiceRx_rxready (s : State) : (afterServiceRx s).rxready = false := by
  unfold afterServiceRx; split <;> rfl

@[simp] theorem afterServiceRx_fgPc (s : State) : (afterServiceRx s).fgPc = s.fgPc := by
  unfold afterServiceRx; split <;> rfl

/-- R126. -/
theorem interruptRequested_iff {s : State} :
    interruptRequested s = true ↔ s.params.rxMode = .interrupt ∧ s.rxie = true ∧ s.rxready = true := by
  simp [interruptRequested, and_assoc]

/-- R105: RXSVC where it is admitted runs `ServiceRx` whole. -/
theorem exec_rxsvc_of_requested {s : State} (hs : s.fault = none) (hr : interruptRequested s = true)
    (hh : s.head < s.params.n) : exec .rxsvc s = .next (prComplete .rxsvc .done (afterServiceRx s)) := by
  rw [exec, execRxsvc, unlessFaulted_none hs, if_pos hr, serviceRx_eq hh]

/-! ### The micro-steps of POLL (R106, R103), each from the state the one before it leaves -/

theorem exec_poll_start {s : State} (hs : s.fault = none) (hc : s.fgCur = none) (hm : s.params.rxMode = .polled)
    (hr : s.rxready = true) : exec .poll s = .next (goTo .poll2 s) := by
  simp [exec, execPoll, unlessFaulted_none hs, hc, hm, hr]

theorem exec_poll_poll2 {s : State} (hs : s.fault = none) :
    exec .poll (goTo .poll2 s) = .next (goTo (.poll3 s.rxdata) (clearRxReady s)) :=
  unlessFaulted_none hs _

theorem exec_poll_poll3 {s : State} (hs : s.fault = none) (v : Byte) :
    exec .poll (goTo (.poll3 v) s) = .next (goTo (.poll4 v s.head) s) :=
  unlessFaulted_none hs _

theorem exec_poll_poll4_of_full {s : State} (hs : s.fault = none) (v : Byte) {h : Nat}
    (hfull : nextCursor s.params h = s.tail) :
    exec .poll (goTo (.poll4 v h) s) = .next (fgComplete .poll .done s) :=
  (unlessFaulted_none hs _).trans (if_pos ((pushFull_iff ..).mpr hfull))

theorem exec_poll_poll4_of_not_full {s : State} (hs : s.fault = none) (v : Byte) {h : Nat}
    (hroom : nextCursor s.params h ≠ s.tail) :
    exec .poll (goTo (.poll4 v h) s) = .next (goTo (.poll5 v h s.tail) s) :=
  (unlessFaulted_none hs _).trans (if_neg (mt (pushFull_iff ..).mp hroom))

theorem exec_poll_poll5 {s : State} (hs : s.fault = none) (v : Byte) {h : Nat} (t : Nat) (hh : h < s.params.n) :
    exec .poll (goTo (.poll5 v h t) s) =
      .next (goTo (.poll6 v h t) { s with storage := Memory.write s.storage h v }) :=
  (unlessFaulted_none hs _).trans (if_pos hh)

theorem exec_poll_poll6 {s : State} (hs : s.fault = none) (v : Byte) (h t : Nat) :
    exec .poll (goTo (.poll6 v h t) s) = .next (fgComplete .poll .done (advanceHead h s)) :=
  unlessFaulted_none hs _

/-- R103, R106: the three micro-steps of POLL before its full check take the byte and copy the head. -/
theorem execTimes_poll_to_poll4 {s : State} (hs : s.fault = none) (hc : s.fgCur = none)
    (hm : s.params.rxMode = .polled) (hr : s.rxready = true) (k : Nat) :
    execTimes .poll (k + 3) s = execTimes .poll k (goTo (.poll4 s.rxdata s.head) (clearRxReady s)) := by
  rw [execTimes_succ_of_next (exec_poll_start hs hc hm hr), execTimes_succ_of_next (exec_poll_poll2 hs),
    execTimes_succ_of_next (exec_poll_poll3 (s := clearRxReady s) hs s.rxdata)]
  rfl

/-- R103, R106: POLL with no other agent's step inside it, of four micro-steps where the buffer is full and of six
where it is not. -/
theorem execTimes_poll {s : State} (hs : s.fault = none) (hc : s.fgCur = none) (hm : s.params.rxMode = .polled)
    (hr : s.rxready = true) (hh : s.head < s.params.n) :
    execTimes .poll (if nextCursor s.params s.head = s.tail then 4 else 6) s =
      .next (fgComplete .poll .done (afterServiceRx s)) := by
  have hs' : (clearRxReady s).fault = none := hs
  unfold afterServiceRx
  split
  case isTrue hfull =>
    refine (execTimes_poll_to_poll4 hs hc hm hr 1).trans ?_
    rw [execTimes_succ_of_next (exec_poll_poll4_of_full hs' _ hfull), execTimes]
  case isFalse hroom =>
    refine (execTimes_poll_to_poll4 hs hc hm hr 3).trans ?_
    rw [execTimes_succ_of_next (exec_poll_poll4_of_not_full hs' _ hroom),
      execTimes_succ_of_next (exec_poll_poll5 hs' _ _ hh)]
    refine execTimes_succ_of_next (exec_poll_poll6 ?_ _ _ _) 0
    exact hs

end Sys2Proof.Machine

open Sys2Proof Sys2Proof.Machine

/-- Settles O35: both leave `afterServiceRx`, whose head, tail and storage depend on `N`, the receive register, the
cursors and the storage alone. -/
theorem pollAndRxsvcMakeTheSameTransition : Obligations.PollAndRxsvcMakeTheSameTransition := by
  intro s s' hs hs' hc hm hr hm' hie' hr' hn hhead htail hstorage hdata hh
  have hrequested : interruptRequested s' = true := interruptRequested_iff.mpr ⟨hm', hie', hr'⟩
  have hh' : s'.head < s'.params.n := by rwa [← hhead, ← hn]
  have hnext (c : Nat) : nextCursor s.params c = nextCursor s'.params c := by rw [nextCursor, hn, nextCursor]
  refine ⟨_, _, _, execTimes_poll hs hc hm hr hh, rfl, ?pc, exec_rxsvc_of_requested hs' hrequested hh',
    ?head, ?tail, ?storage, ?ready, ?ready'⟩
  case pc => simp
  case head => simp [afterServiceRx_head, hnext, hhead, htail]
  case tail => simp [htail]
  case storage => simp [afterServiceRx_storage, hnext, hhead, htail, hstorage, hdata]
  case ready => simp
  case ready' => simp

/-- Settles O36: the step is `arriveByte` of the state with the choice used up, and each clause is one of its cases. -/
theorem arrivingByteIsTakenLostOrOverruns : Obligations.ArrivingByteIsTakenLostOrOverruns := by
  intro s b keepNew hs ha
  rw [step_rxArrive hs ha]
  refine ⟨fun hen hr => ?free, fun hen => ?disabled, fun hen hr => ?overrun⟩
  case free => rw [arriveByte_of_free (by simpa using hen) (by simpa using hr), receiveByte]
  case disabled => rw [arriveByte_of_disabled (by simpa using hen)]
  case overrun => rw [arriveByte_of_overrun (by simpa using hen) (by simpa using hr), consumeChoice_rxdata]

end

section
/-! PROOFS. OPEN and CLOSE with no fault and nothing in flight (R116, R117), and why the second of two OPENs decides
(R118). -/

namespace Sys2Proof.Machine

/-- R116: what OPEN does to the controller. -/
def afterOpen (baud : ArgWord) (s : State) : State := setEnables true (configureBaud baud s)

/-- R117: what CLOSE does to the controller. -/
def afterClose (s : State) : State := { setEnables false s with rxready := closeRxReady s }

theorem exec_openLine_of_idle {s : State} {baud : ArgWord} (hs : s.fault = none) (hc : s.fgCur = none)
    (hb : baud ≠ 0) : exec (.openLine baud) s = .next (fgComplete (.openLine baud) .done (afterOpen baud s)) := by
  rw [exec, execOpen, unlessFaulted_none hs, hc]
  exact if_neg hb

theorem exec_close_of_idle {s : State} (hs : s.fault = none) (hc : s.fgCur = none) :
    exec .close s = .next (fgComplete .close .done (afterClose s)) := by
  rw [exec, execClose, unlessFaulted_none hs, hc, afterClose]

@[simp] theorem afterOpen_head (baud : ArgWord) (s : State) : (afterOpen baud s).head = s.head := rfl
@[simp] theorem afterOpen_tail (baud : ArgWord) (s : State) : (afterOpen baud s).tail = s.tail := rfl
@[simp] theorem afterOpen_storage (baud : ArgWord) (s : State) : (afterOpen baud s).storage = s.storage := rfl
@[simp] theorem afterOpen_fault (baud : ArgWord) (s : State) : (afterOpen baud s).fault = s.fault := rfl

@[simp] theorem afterClose_head (s : State) : (afterClose s).head = s.head := rfl
@[simp] theorem afterClose_tail (s : State) : (afterClose s).tail = s.tail := rfl
@[simp] theorem afterClose_storage (s : State) : (afterClose s).storage = s.storage := rfl

/-- R118: an OPEN overwrites all that an earlier one wrote, from values no OPEN writes: the rate it is given and the
parameters. Completing the earlier one stands in neither's way. -/
theorem afterOpen_overwrites (a b : ArgWord) (i : Instr) (r : Result) (s : State) :
    afterOpen b (fgComplete i r (afterOpen a s)) = fgComplete i r (afterOpen b s) := rfl

/-- R42, R45: that another request completed before shows in `FG.pc` and `FG.log` alone. -/
theorem fgComplete_after_fgComplete (i j : Instr) (r q : Result) (s : State) :
    fgComplete j q (fgComplete i r s) = { fgComplete j q s with
      fgPc := (fgComplete j q (fgComplete i r s)).fgPc
      fgLog := (fgComplete j q (fgComplete i r s)).fgLog } := rfl

end Sys2Proof.Machine

open Sys2Proof Sys2Proof.Machine

/-- Settles O47: the second OPEN overwrites what the first one wrote, so only the first one's completion is left of it;
with the rate twice, the first one alone leaves what the second one alone does. -/
theorem secondOpenDecides : Obligations.SecondOpenDecides := by
  intro a b s hs hc ha hb
  have hsecond := fgComplete_after_fgComplete (.openLine a) (.openLine b) .done .done (afterOpen b s)
  refine ⟨_, _, _, exec_openLine_of_idle hs hc ha, exec_openLine_of_idle ?fault ?cur hb,
    exec_openLine_of_idle hs hc hb, ?second, ?same, ?head, ?tail, ?storage, _, exec_close_of_idle hs hc, ?close⟩
  case fault => simpa using hs
  case cur => simp
  case second => rwa [afterOpen_overwrites]
  case same =>
    rintro rfl
    rwa [afterOpen_overwrites]
  case head => simp
  case tail => simp
  case storage => simp
  case close => simp

end

section
/-! PROOFS. Nothing happens after a fault (R122): the step and every request begin with the check of `S.fault`, and a
complete run has no fault (R150). -/

namespace Sys2Proof.Machine

variable {s : State} {f : FaultRecord}

/-- R122: FG, PR and ENV all stop. -/
theorem step_of_fault (hf : s.fault = some f) : step s = .fault (.stopped f.code) :=
  unlessFaulted_some hf _

/-- R122: every request, in flight or not, has the check of `S.fault` in front of its micro-steps. -/
theorem exec_of_fault (hf : s.fault = some f) (i : Instr) : exec i s = .fault (.stopped f.code) := by
  cases i <;> exact unlessFaulted_some hf _

/-- R150. -/
theorem complete_of_fault (hf : s.fault = some f) : s.complete = false := by
  simp [State.complete, hf]

end Sys2Proof.Machine

open Sys2Proof Sys2Proof.Machine

/-- Settles O12: the check of `S.fault` stands before the choice of the agent and before every request, whatever is in
flight or queued. -/
theorem faultStopsEveryAgent : Obligations.FaultStopsEveryAgent := fun _ _ hf =>
  ⟨step_of_fault hf, exec_of_fault hf, complete_of_fault hf⟩

end

section
/-! PROOFS. Encoding and decoding are inverse (R73 to R77): the decoder finds in the words of an instruction its row
of the opcode map and its operand, and a word that decodes is made up of just these fields. -/

namespace Sys2Proof

/-- R77: each code spells its own row. -/
theorem Operation.ofCode_code (o : Operation) : ofCode o.code = some o := by
  cases o <;> rfl

/-- R73, R77: the words of an instruction are well formed on its port and hold its code, no reserved bit and its byte. -/
theorem encode_fields (i : Instr) : Laws.Encoding.Statement i := by
  cases i with
  | push b => exact Laws.Encoding.push b
  | rxsvc => exact Laws.Encoding.rxsvc
  | read => exact Laws.Encoding.read
  | peek => exact Laws.Encoding.peek
  | avail => exact Laws.Encoding.avail
  | flush => exact Laws.Encoding.flush
  | poll => exact Laws.Encoding.poll
  | openLine baud => exact Laws.Encoding.openLine baud
  | close => exact Laws.Encoding.close
  | write b => exact Laws.Encoding.write b

/-- R74: outside format B an instruction has no byte. -/
theorem Instr.imm8_eq_zero_of_format {i : Instr} (h : i.operation.format ≠ .b) : i.imm8 = 0#8 := by
  cases i with
  | push b => exact absurd rfl h
  | write b => exact absurd rfl h
  | _ => rfl

/-- R75: the operand is taken from the field that holds it. -/
theorem Operation.assemble_of_fields {i : Instr} {r : Request} (himm : r.imm8 = i.imm8) (harg : r.arg = i.argWord) :
    i.operation.assemble r = i := by
  cases i with
  | push b => exact congrArg Instr.push himm
  | write b => exact congrArg Instr.write himm
  | openLine baud => exact congrArg Instr.openLine harg
  | _ => rfl

/-- R79: what a request that passes every check decodes to. -/
theorem decode_eq_ok_iff {port : Port} {r : Request} {i : Instr} :
    decode port r = .ok i ↔ ∃ o, Operation.ofCode r.op = some o ∧ r.rsv = 0#4 ∧
      (o.format ≠ .b → r.imm8 = 0#8) ∧ o.port = port ∧ o.assemble r = i := by
  unfold decode
  cases Operation.ofCode r.op with
  | none => simp
  | some o => simp only; split_ifs <;> simp_all

/-- R77: an assembled instruction belongs to the row it is assembled from. -/
theorem Operation.assemble_operation (o : Operation) (r : Request) : (o.assemble r).operation = o := by
  cases o <;> rfl

/-- R75: the byte of an assembled instruction is that of the word, which outside format B has none. -/
theorem Operation.assemble_imm8 {o : Operation} {r : Request} (h : o.format ≠ .b → r.imm8 = 0#8) :
    (o.assemble r).imm8 = r.imm8 := by
  cases o with
  | push => rfl
  | write => rfl
  | _ => exact (h (by decide)).symm

/-- R73: a request word is its three fields. -/
theorem Request.req_eq_fields (r : Request) : r.op ++ r.rsv ++ r.imm8 = r.req := by
  apply BitVec.eq_of_getLsbD_eq
  intro k hk
  simp only [Request.op, Request.rsv, Request.imm8, BitVec.getLsbD_append, BitVec.getLsbD_extractLsb']
  by_cases h8 : k < 8
  · simp [h8]
  · by_cases h12 : k < 12
    · have : k - 8 < 4 := by omega
      simp [h8, this, show 8 + (k - 8) = k by omega]
    · have : ¬ k - 8 < 4 := by omega
      simp [h8, this, show k - 8 - 4 < 4 by omega, show 12 + (k - 8 - 4) = k by omega]

end Sys2Proof

open Sys2Proof

/-- Settles O1: the words pass each check of the decoder, which then finds the operand in its field. -/
theorem decodingAnEncodedInstructionGivesItBack : Obligations.DecodingAnEncodedInstructionGivesItBack := by
  intro i
  obtain ⟨-, hop, hrsv, himm, -⟩ := encode_fields i
  refine decode_eq_ok_iff.mpr ⟨i.operation, ?_, hrsv, fun hb => ?_, rfl, Operation.assemble_of_fields himm rfl⟩
  · rw [hop, Operation.ofCode_code]
  · rw [himm, Instr.imm8_eq_zero_of_format hb]

/-- Settles O2: the encoder puts the code of the row the word spells, no reserved bit and the byte of the word into
the fields they were read from. -/
theorem decodedWordIsTheEncodingOfItsInstruction : Obligations.DecodedWordIsTheEncodingOfItsInstruction := by
  intro port r i h
  obtain ⟨o, ho, hrsv, himm, rfl, rfl⟩ := decode_eq_ok_iff.mp h
  have hreq : (encode (o.assemble r)).req = r.req := by
    rw [encode, o.assemble_operation, Operation.assemble_imm8 himm, Operation.code_of_ofCode ho, ← hrsv, r.req_eq_fields]
  refine ⟨Machine.decode_port h, hreq, fun hopen => ?_⟩
  have hrow : o = .openLine := by
    have : Operation.ofCode r.op = some .openLine := by rw [show r.op = 0x8#4 from hopen]; rfl
    exact Option.some.inj (ho.symm.trans this)
  subst hrow
  exact congrArg (Request.mk · r.arg) hreq

/-- Settles O4: the decoder runs on each word. -/
theorem wordsOfTheOpcodeMapDecode : Obligations.WordsOfTheOpcodeMapDecode := by
  unfold Obligations.WordsOfTheOpcodeMapDecode
  decide

end

section
/-! PROOFS. The assembly examples of R84 and R85. -/

open Sys2Proof Sys2Proof.Machine

/-- Settles O60: the assembler runs on each line; WRITES expands by its definition. -/
theorem assemblyLinesAssemble : Obligations.AssemblyLinesAssemble := by
  refine ⟨?_, ?_, ?_, ?_, fun _ => rfl, ?_, ?_⟩ <;> decide

end

section
/-! PROOFS. The laws of the storage (R18, R52): slots are independent cells, and the canonical form is determined by
what the slots read. -/

namespace Sys2Proof.Machine

/-- In a canonical storage a slot below the first one listed reads as no value. -/
theorem Memory.read_lt_first {c : Host.Cell} {m : Memory} (h : Memory.wf (c :: m) = true) {i : Nat} (hi : i < c.1) :
    Memory.read (c :: m) i = none :=
  Memory.read_eq_none_of_lt <| List.forall_mem_cons.mpr ⟨hi, fun d hd => hi.trans (Memory.wf_first_lt h d hd)⟩

/-- In a canonical storage the first slot is listed once. -/
theorem Memory.read_tail_first {c : Host.Cell} {m : Memory} (h : Memory.wf (c :: m) = true) :
    Memory.read m c.1 = none :=
  Memory.read_eq_none_of_lt (Memory.wf_first_lt h)

theorem Memory.read_first (c : Host.Cell) (m : Memory) : Memory.read (c :: m) c.1 = some c.2 := if_pos rfl

/-- Canonical storages that read alike list the same first slot: neither first slot is below the other. -/
theorem Memory.first_le_of_read_eq {c d : Host.Cell} {m m' : Memory} (h' : Memory.wf (d :: m') = true)
    (hr : ∀ i, Memory.read (c :: m) i = Memory.read (d :: m') i) : d.1 ≤ c.1 := by
  by_contra hlt
  have := hr c.1
  simp [Memory.read_first, Memory.read_lt_first h' (Nat.lt_of_not_le hlt)] at this

/-- Equal reads are equal data, in the canonical form. -/
theorem Memory.eq_of_read_eq {m m' : Memory} (h : Memory.wf m = true) (h' : Memory.wf m' = true)
    (hr : ∀ i, Memory.read m i = Memory.read m' i) : m = m' := by
  induction m generalizing m' with
  | nil =>
    cases m' with
    | nil => rfl
    | cons d m' => simpa [Memory.read_first] using hr d.1
  | cons c m ih =>
    cases m' with
    | nil => simpa [Memory.read_first] using hr c.1
    | cons d m' =>
      have hslot : c.1 = d.1 :=
        (Memory.first_le_of_read_eq h fun i => (hr i).symm).antisymm (Memory.first_le_of_read_eq h' hr)
      have hbyte : some c.2 = some d.2 := by rw [← Memory.read_first c m, hr c.1, hslot, Memory.read_first]
      have hrest : ∀ i, Memory.read m i = Memory.read m' i := by
        intro i
        by_cases hi : c.1 = i
        · rw [← hi, Memory.read_tail_first h, hslot, Memory.read_tail_first h']
        · simpa [Memory.read_cons, hi, ← hslot] using hr i
      rw [ih (Memory.wf_tail h) (Memory.wf_tail h') hrest, Prod.ext hslot (Option.some.inj hbyte)]

/-- A slot that was written stays written. -/
theorem Memory.isSome_read_write {m : Memory} {j : Nat} (h : (Memory.read m j).isSome = true) (i : Nat) (b : Byte) :
    (Memory.read (Memory.write m i b) j).isSome = true := by
  by_cases hij : i = j
  · rw [hij, Memory.read_write_same]; rfl
  · rwa [Memory.read_write_of_ne hij]

end Sys2Proof.Machine

open Sys2Proof.Machine

/-- Settles O55: the first three laws go through the storage cell by cell, the last one compares first cells. -/
theorem storageLaws : Obligations.StorageLaws :=
  ⟨Memory.read_write_same, fun m _ _ b hji => Memory.read_write_of_ne hji.symm m b, fun _ i b h => Memory.write_wf h i b,
    fun _ _ => Memory.eq_of_read_eq⟩

end

section
/-! PROOFS. The unread range cut in two at a copy of a cursor (R25, R86). -/

namespace Sys2Proof.Machine

theorem slotsFrom_add (p : Params) {t : Nat} (ht : t < p.n) (a b : Nat) :
    slotsFrom p t (a + b) = slotsFrom p t a ++ slotsFrom p ((t + a) % p.n) b := by
  induction a generalizing t with
  | zero => rw [Nat.zero_add, Nat.add_zero, Nat.mod_eq_of_lt ht]; rfl
  | succ a ih =>
    have hnext : (nextCursor p t + a) % p.n = (t + (a + 1)) % p.n := by
      rw [nextCursor, Nat.mod_add_mod, Nat.add_assoc, Nat.add_comm 1]
    rw [Nat.add_right_comm, slotsFrom, ih (nextCursor_lt p t), slotsFrom, hnext, List.cons_append]

/-- R93: a cursor `c` not beyond the head cuts the count in two. -/
theorem countBetween_split {p : Params} {h c t : Nat} (hh : h < p.n) (hc : c < p.n) (ht : t < p.n)
    (hle : countBetween p c t ≤ countBetween p h t) :
    countBetween p h t = countBetween p c t + countBetween p h c := by
  rw [countBetween_eq p c t hc ht, countBetween_eq p h t hh ht] at hle
  rw [countBetween_eq p c t hc ht, countBetween_eq p h t hh ht, countBetween_eq p h c hh hc]
  split_ifs at hle ⊢ <;> omega

/-- R25: a cursor `c` not beyond the head cuts the unread slots in two. -/
theorem slotsFrom_split {p : Params} {h c t : Nat} (hh : h < p.n) (hc : c < p.n) (ht : t < p.n)
    (hle : countBetween p c t ≤ countBetween p h t) :
    slotsFrom p t (countBetween p h t) = slotsFrom p t (countBetween p c t) ++ slotsFrom p c (countBetween p h c) := by
  rw [countBetween_split hh hc ht hle, slotsFrom_add p ht, tail_add_countBetween hc ht]

theorem bytesFrom_split {p : Params} {h c t : Nat} (hh : h < p.n) (hc : c < p.n) (ht : t < p.n)
    (hle : countBetween p c t ≤ countBetween p h t) (m : Memory) :
    bytesFrom p m t (countBetween p h t) =
      bytesFrom p m t (countBetween p c t) ++ bytesFrom p m c (countBetween p h c) := by
  unfold bytesFrom
  rw [slotsFrom_split hh hc ht hle, List.filterMap_append]

/-- R86, R93: in a buffer that is not empty the cursor after the tail is one slot on and not beyond the head. -/
theorem countBetween_nextCursor_tail {p : Params} {h t : Nat} (hh : h < p.n) (ht : t < p.n) (hne : h ≠ t) :
    countBetween p (nextCursor p t) t = 1 ∧ 1 ≤ countBetween p h t := by
  have hpos : 1 ≤ countBetween p h t := Nat.one_le_iff_ne_zero.mpr (mt (countBetween_eq_zero_iff hh ht).mp hne)
  refine ⟨?_, hpos⟩
  rw [countBetween_eq p _ t (nextCursor_lt p t) ht, nextCursor_eq p t ht]
  split_ifs <;> omega

/-- R25: the oldest unread byte stands at the tail. -/
theorem bytesFrom_tail {p : Params} {h t : Nat} (hh : h < p.n) (ht : t < p.n) (hne : h ≠ t) {m : Memory} {v : Byte}
    (hv : Memory.read m t = some v) :
    bytesFrom p m t (countBetween p h t) = v :: bytesFrom p m (nextCursor p t) (countBetween p h (nextCursor p t)) := by
  obtain ⟨hone, hpos⟩ := countBetween_nextCursor_tail hh ht hne
  rw [bytesFrom_split hh (nextCursor_lt p t) ht (hone.trans_le hpos), hone]
  simp [bytesFrom, slotsFrom, hv]

/-- R25, R89: a head moved on by one slot, which holds `b`, appends `b` to the unread bytes. -/
theorem bytesFrom_nextCursor {p : Params} {h t : Nat} (hh : h < p.n) (ht : t < p.n) (hroom : nextCursor p h ≠ t)
    {m : Memory} {b : Byte} (hb : Memory.read m h = some b) :
    bytesFrom p m t (countBetween p (nextCursor p h) t) = bytesFrom p m t (countBetween p h t) ++ [b] := by
  unfold bytesFrom
  rw [countBetween_nextCursor hh ht hroom, slotsFrom_succ p t _ ht, tail_add_countBetween hh ht, List.filterMap_append]
  simp [hb]

/-- R25: the unread bytes do not depend on the slot at the head. -/
theorem bytesFrom_congr {p : Params} {h t : Nat} (hh : h < p.n) (ht : t < p.n) {m m' : Memory}
    (hsame : ∀ j, j ≠ h → Memory.read m' j = Memory.read m j) :
    bytesFrom p m' t (countBetween p h t) = bytesFrom p m t (countBetween p h t) :=
  List.filterMap_congr fun j hj => hsame j (ne_of_mem_of_not_mem hj (head_notMem_slotsFrom hh ht))

end Sys2Proof.Machine
end

section
/-! PROOFS. What an effect does to the ring buffer, to FG's own state and to the transmit side, each in a few cases. -/

namespace Sys2Proof.Machine

/-! ### The updates by cases, as updates of fields -/

theorem pollTxEmpty_eq_goTo (b : Byte) (s : State) :
    pollTxEmpty b s = goTo (if s.txempty then .write2 b else .write1 b) s := by
  unfold pollTxEmpty; split <;> rfl

theorem arriveByte_eq (b : Byte) (k : Bool) (s : State) :
    arriveByte b k s = { s with rxdata := (arriveByte b k s).rxdata, rxready := (arriveByte b k s).rxready } := by
  unfold arriveByte; split_ifs <;> rfl

theorem drainByte_eq (s : State) :
    drainByte s = { s with txline := (drainByte s).txline, txempty := (drainByte s).txempty } := by
  unfold drainByte; split <;> rfl

/-! ### FG's own state (R42, R43, R45) -/

/-- R43: `i` is FG's request in flight, or the one FG is about to issue. -/
def Running (s : State) (i : Instr) : Prop :=
  (s.fgCur = none ∧ Issued s i) ∨ ∃ c, s.fgCur = some c ∧ c.request = i

theorem Running.of_start {s : State} {i : Instr} (hc : s.fgCur = none) (hi : Issued s i) : Running s i := .inl ⟨hc, hi⟩

theorem Running.of_inFlight {s : State} {c : InFlight} {i : Instr} (hc : s.fgCur = some c) (hi : c.request = i) :
    Running s i := .inr ⟨c, hc, hi⟩

/-- R42, R43: it is the one the program spells. -/
theorem Running.issued {s : State} {i : Instr} (hinv : Inv s) (h : Running s i) : Issued s i := by
  rcases h with ⟨-, hi⟩ | ⟨c, hc, rfl⟩
  · exact hi
  · exact hinv.issued c hc

theorem Issued.pc_lt {s : State} {i : Instr} (h : Issued s i) : s.fgPc < s.fgProg.length := by
  obtain ⟨r, hr, -⟩ := h
  exact (List.getElem?_eq_some_iff.mp hr).1

/-- What an effect does to FG's own state: nothing, or FG takes a micro-step of its request, the last one or not. -/
inductive FgStep (s : State) (a : AgentStep) (t : State) : Prop
  | idle (cur : t.fgCur = s.fgCur) (pc : t.fgPc = s.fgPc) (log : t.fgLog = s.fgLog)
  | goOn (c : InFlight) (agent : a = .foreground) (cur : t.fgCur = some c) (pc : t.fgPc = s.fgPc)
      (log : t.fgLog = s.fgLog) (running : Running s c.request)
  | complete (i : Instr) (r : Result) (agent : a = .foreground) (cur : t.fgCur = none) (pc : t.fgPc = s.fgPc + 1)
      (log : t.fgLog = s.fgLog ++ [⟨i, r⟩]) (running : Running s i)

theorem Effect.fgStep {s t : State} {a : AgentStep} (h : Effect s a t) : FgStep s a t := by
  cases h
  case hold | fault | pushDrop | pushStore | rxsvcDrop | rxsvcStore => exact .idle rfl rfl rfl
  case arrive b k => rw [arriveByte_eq]; exact .idle rfl rfl rfl
  case drain => rw [drainByte_eq]; exact .idle rfl rfl rfl
  case readStart hc hi | peekStart hc hi | availStart hc hi | flushStart hc hi | pollStart hc hi _ _ =>
    exact .goOn _ rfl rfl rfl rfl (.of_start hc hi)
  case readTail hc _ | readLoad hc _ | peekTail hc _ | pollTake hc | pollHead hc | pollTail hc _ | pollStore hc _ =>
    exact .goOn _ rfl rfl rfl rfl (.of_inFlight hc rfl)
  case writeStart hc hi _ =>
    rw [pollTxEmpty_eq_goTo]
    exact .goOn _ rfl rfl rfl rfl (.of_start hc (by split <;> exact hi))
  case writePoll hc =>
    rw [pollTxEmpty_eq_goTo]
    exact .goOn _ rfl rfl rfl rfl (.of_inFlight hc (by split <;> rfl))
  case pollNone hc hi _ _ | openDone hc hi | closeDone hc hi => exact .complete _ _ rfl rfl rfl rfl (.of_start hc hi)
  case readEmpty hc _ | readDone hc | peekEmpty hc _ | peekDone hc _ | availDone hc | flushDone hc | pollDrop hc _
      | pollDone hc | writeDone hc =>
    exact .complete _ _ rfl rfl rfl rfl (.of_inFlight hc rfl)

/-- R8, R42: the parameters, FG's program and the choices to come are no agent's to write. -/
theorem Effect.constants {s t : State} {a : AgentStep} (h : Effect s a t) :
    t.params = s.params ∧ t.fgProg = s.fgProg ∧ t.schedule = s.schedule := by
  cases h
  case arrive b k => rw [arriveByte_eq]; exact ⟨rfl, rfl, rfl⟩
  case drain => rw [drainByte_eq]; exact ⟨rfl, rfl, rfl⟩
  case writeStart | writePoll => rw [pollTxEmpty_eq_goTo]; exact ⟨rfl, rfl, rfl⟩
  all_goals exact ⟨rfl, rfl, rfl⟩

/-- R45: `PR.log` gets one entry where PUSH or RXSVC completes. -/
theorem Effect.prLog {s t : State} {a : AgentStep} (h : Effect s a t) :
    t.prLog = s.prLog ∨ ∃ e, t.prLog = s.prLog ++ [e] := by
  cases h
  case pushDrop | pushStore | rxsvcDrop | rxsvcStore => exact .inr ⟨_, rfl⟩
  case arrive b k => rw [arriveByte_eq]; exact .inl rfl
  case drain => rw [drainByte_eq]; exact .inl rfl
  case writeStart | writePoll => rw [pollTxEmpty_eq_goTo]; exact .inl rfl
  all_goals exact .inl rfl

/-! ### The ring buffer -/

/-- The ring buffer: the parameters, the storage, the head and the tail. -/
def State.ring (s : State) : Params × Memory × Nat × Nat := (s.params, s.storage, s.head, s.tail)

/-- What an effect does to the ring buffer, and the event of the queue it is (R95): nothing; a byte put in the slot at
the head, which is not unread; the head moved on over a slot that holds a byte; the tail moved on over the oldest byte;
the tail moved to a copy of the head. -/
inductive QueueStep (s t : State) : QueueEvent → Prop
  | idle (ring : t.ring = s.ring) : QueueStep s t .none
  | slot (b : Byte) (ring : t.ring = (s.params, Memory.write s.storage s.head b, s.head, s.tail)) : QueueStep s t .none
  | push (b : Byte) (m : Memory) (room : nextCursor s.params s.head ≠ s.tail) (stored : Memory.read m s.head = some b)
      (others : ∀ j, j ≠ s.head → Memory.read m j = Memory.read s.storage j)
      (ring : t.ring = (s.params, m, nextCursor s.params s.head, s.tail)) : QueueStep s t (.stored b)
  | take (v : Byte) (nonempty : s.head ≠ s.tail) (oldest : Memory.read s.storage s.tail = some v)
      (ring : t.ring = (s.params, s.storage, s.head, nextCursor s.params s.tail)) : QueueStep s t (.taken v)
  | flush (h : Nat) (copy : headCopyOk s h) (ring : t.ring = (s.params, s.storage, s.head, h)) :
      QueueStep s t (.discarded (countBetween s.params h s.tail))

theorem queueEvent_of_fgCur_eq {s t : State} (hh : t.head = s.head) (hc : t.fgCur = s.fgCur) :
    queueEvent s t = .none := by
  unfold queueEvent
  rw [if_neg (not_not.mpr hh), hc]
  cases s.fgCur with
  | none => rfl
  | some c => cases c <;> rfl

theorem queueEvent_of_goTo {s t : State} {c : InFlight} (hh : t.head = s.head) (hc : t.fgCur = some c) :
    queueEvent s t = .none := by
  unfold queueEvent
  rw [if_neg (not_not.mpr hh), hc]
  cases s.fgCur with
  | none => rfl
  | some c => cases c <;> rfl

theorem queueEvent_of_idle {s t : State} (hh : t.head = s.head) (hc : s.fgCur = none) : queueEvent s t = .none := by
  unfold queueEvent
  rw [if_neg (not_not.mpr hh), hc]

/-- R86: where the buffer is not full it has a second slot, so the head moves. -/
theorem nextCursor_ne_of_room {p : Params} {h t : Nat} (hh : h < p.n) (ht : t < p.n) (hroom : nextCursor p h ≠ t) :
    nextCursor p h ≠ h := by
  rw [nextCursor_eq p h hh] at hroom ⊢
  split_ifs at hroom ⊢ <;> omega

theorem queueEvent_of_push {s t : State} {b : Byte} (hinv : Inv s) (hroom : nextCursor s.params s.head ≠ s.tail)
    (hh : t.head = nextCursor s.params s.head) (hb : Memory.read t.storage s.head = some b) :
    queueEvent s t = .stored b := by
  have hmoved : t.head ≠ s.head := hh ▸ nextCursor_ne_of_room hinv.head_lt hinv.tail_lt hroom
  unfold queueEvent
  rw [if_pos hmoved, hb]

theorem QueueStep.of_noEvent {s t : State} (hring : t.ring = s.ring) (hevent : queueEvent s t = .none) :
    QueueStep s t (queueEvent s t) := hevent ▸ .idle hring

/-- R89: a byte stored at the head by a whole push. -/
theorem QueueStep.of_store {s t : State} {b : Byte} (hinv : Inv s) (hroom : nextCursor s.params s.head ≠ s.tail)
    (hring : t.ring = (s.params, Memory.write s.storage s.head b, nextCursor s.params s.head, s.tail)) :
    QueueStep s t (queueEvent s t) := by
  have hm : t.storage = Memory.write s.storage s.head b := congrArg (·.2.1) hring
  have hh : t.head = nextCursor s.params s.head := congrArg (·.2.2.1) hring
  have hb : Memory.read t.storage s.head = some b := by rw [hm, Memory.read_write_same]
  rw [queueEvent_of_push hinv hroom hh hb]
  exact .push b _ hroom (Memory.read_write_same ..) (fun j hj => Memory.read_write_of_ne hj.symm ..) hring

/-- R95: what the effect does to the ring buffer is what its event tells. -/
theorem Effect.queueStep {s t : State} {a : AgentStep} (hinv : Inv s) (h : Effect s a t) :
    QueueStep s t (queueEvent s t) := by
  have hok := hinv.in_flight
  cases h
  case pushStore b q _ hroom _ => exact .of_store hinv hroom rfl
  case rxsvcStore q _ hroom _ _ => exact .of_store hinv hroom rfl
  case readDone h u v hc =>
    simp only [inFlightOk, hc] at hok
    obtain ⟨hcopy, rfl, hne, hv⟩ := hok
    have hevent : queueEvent s (fgComplete .read (.optByte (some v)) (advanceTail s.tail s)) = .taken v := by
      simp [queueEvent, hc]
    rw [hevent]
    exact .take v (hcopy.head_ne_tail hinv.tail_lt hne) hv rfl
  case flushDone h hc =>
    simp only [inFlightOk, hc] at hok
    have hevent : queueEvent s (fgComplete .flush .done { s with tail := h }) =
        .discarded (countBetween s.params h s.tail) := by simp [queueEvent, hc]
    rw [hevent]
    exact .flush h hok rfl
  case pollStore v h u hc hh =>
    simp only [inFlightOk, hc] at hok
    obtain ⟨-, rfl, -, -⟩ := hok
    have hevent : queueEvent s (goTo (.poll6 v s.head u) { s with storage := Memory.write s.storage s.head v }) = .none :=
      queueEvent_of_goTo rfl rfl
    rw [hevent]
    exact .slot v rfl
  case pollDone v h u hc =>
    simp only [inFlightOk, hc] at hok
    obtain ⟨-, rfl, rfl, hroom, hv⟩ := hok
    have hevent : queueEvent s (fgComplete .poll .done (advanceHead s.head s)) = .stored v :=
      queueEvent_of_push hinv hroom rfl hv
    rw [hevent]
    exact .push v _ hroom hv (fun _ _ => rfl) rfl
  case hold | fault | pushDrop | rxsvcDrop => exact .of_noEvent rfl (queueEvent_of_fgCur_eq rfl rfl)
  case arrive b k => rw [arriveByte_eq]; exact .of_noEvent rfl (queueEvent_of_fgCur_eq rfl rfl)
  case drain => rw [drainByte_eq]; exact .of_noEvent rfl (queueEvent_of_fgCur_eq rfl rfl)
  case writeStart | writePoll => rw [pollTxEmpty_eq_goTo]; exact .of_noEvent rfl (queueEvent_of_goTo rfl rfl)
  case pollNone hc _ _ _ | openDone hc _ | closeDone hc _ => exact .of_noEvent rfl (queueEvent_of_idle rfl hc)
  case readEmpty hc _ | peekEmpty hc _ | peekDone hc _ | availDone hc | pollDrop hc _ | writeDone hc =>
    exact .of_noEvent rfl (by simp [queueEvent, hc])
  all_goals exact .of_noEvent rfl (queueEvent_of_goTo rfl rfl)

end Sys2Proof.Machine
end

section
/-! PROOFS. The invariant: each clause of `Inv` after an effect, from the summaries of what an effect does. -/

namespace Sys2Proof.Machine

/-! ### The ring buffer's clauses (R22, R25, R26) -/

theorem ring_eq_iff {s : State} {p : Params} {m : Memory} {h t : Nat} :
    s.ring = (p, m, h, t) ↔ s.params = p ∧ s.storage = m ∧ s.head = h ∧ s.tail = t := by
  simp [State.ring]

theorem unreadBytes_of_ring {s : State} {p : Params} {m : Memory} {h t : Nat} (hr : s.ring = (p, m, h, t)) :
    unreadBytes s = bytesFrom p m t (countBetween p h t) := by
  obtain ⟨rfl, rfl, rfl, rfl⟩ := ring_eq_iff.mp hr
  rfl

theorem unreadWritten_of_ring {s : State} {p : Params} {m : Memory} {h t : Nat} (hr : s.ring = (p, m, h, t)) :
    unreadWritten s ↔ ∀ i ∈ slotsFrom p t (countBetween p h t), (Memory.read m i).isSome = true := by
  obtain ⟨rfl, rfl, rfl, rfl⟩ := ring_eq_iff.mp hr
  rfl

/-- R26: a byte put in a slot, and a slot that leaves the unread range, leave the others written; the slot that
enters it holds the byte pushed. -/
theorem QueueStep.written {s t : State} {e : QueueEvent} (hinv : Inv s) (h : QueueStep s t e) : unreadWritten t := by
  have hh := hinv.head_lt
  have ht := hinv.tail_lt
  have hw : ∀ i ∈ slotsFrom s.params s.tail (countBetween s.params s.head s.tail), _ := hinv.written
  cases h with
  | idle ring => exact (unreadWritten_of_ring ring).mpr hw
  | slot b ring => exact (unreadWritten_of_ring ring).mpr fun i hi => Memory.isSome_read_write (hw i hi) ..
  | push b m room stored others ring =>
    rw [unreadWritten_of_ring ring, countBetween_nextCursor hh ht room, slotsFrom_succ _ _ _ ht,
      tail_add_countBetween hh ht]
    intro i hi
    by_cases hhead : i = s.head
    · rw [hhead, stored]; rfl
    · rw [others i hhead]
      exact hw i (by simpa [hhead] using hi)
  | take v nonempty oldest ring =>
    obtain ⟨hone, hpos⟩ := countBetween_nextCursor_tail hh ht nonempty
    rw [slotsFrom_split hh (nextCursor_lt ..) ht (hone.trans_le hpos)] at hw
    exact (unreadWritten_of_ring ring).mpr fun i hi => hw i (List.mem_append_right _ hi)
  | flush c copy ring =>
    rw [slotsFrom_split hh copy.1 ht copy.2] at hw
    exact (unreadWritten_of_ring ring).mpr fun i hi => hw i (List.mem_append_right _ hi)

/-- R22. -/
theorem QueueStep.cursors_lt {s t : State} {e : QueueEvent} (hinv : Inv s) (h : QueueStep s t e) :
    t.head < t.params.n ∧ t.tail < t.params.n := by
  have hh := hinv.head_lt
  have ht := hinv.tail_lt
  cases h with
  | idle ring => obtain ⟨hp, -, hhead, htail⟩ := ring_eq_iff.mp ring; rw [hp, hhead, htail]; exact ⟨hh, ht⟩
  | slot b ring => obtain ⟨hp, -, hhead, htail⟩ := ring_eq_iff.mp ring; rw [hp, hhead, htail]; exact ⟨hh, ht⟩
  | push b m room stored others ring =>
    obtain ⟨hp, -, hhead, htail⟩ := ring_eq_iff.mp ring
    rw [hp, hhead, htail]
    exact ⟨nextCursor_lt .., ht⟩
  | take v nonempty oldest ring =>
    obtain ⟨hp, -, hhead, htail⟩ := ring_eq_iff.mp ring
    rw [hp, hhead, htail]
    exact ⟨hh, nextCursor_lt ..⟩
  | flush c copy ring =>
    obtain ⟨hp, -, hhead, htail⟩ := ring_eq_iff.mp ring
    rw [hp, hhead, htail]
    exact ⟨hh, copy.1⟩

/-- R50, R56: an effect leaves the storage or writes one slot, which is in [0, N). -/
theorem Effect.storage {s t : State} {a : AgentStep} (h : Effect s a t) :
    t.storage = s.storage ∨ ∃ i b, i < s.params.n ∧ t.storage = Memory.write s.storage i b := by
  cases h
  case pushStore hh | rxsvcStore hh _ | pollStore hh => exact .inr ⟨_, _, hh, rfl⟩
  case arrive b k => rw [arriveByte_eq]; exact .inl rfl
  case drain => rw [drainByte_eq]; exact .inl rfl
  case writeStart | writePoll => rw [pollTxEmpty_eq_goTo]; exact .inl rfl
  all_goals exact .inl rfl

/-! ### The request in flight (R43, R66) -/

/-- R66: what a request in flight relies on: a step that is not FG's keeps `t` so. A head copied stays good, the byte
at the tail of a buffer that is not empty stays, and in POLLED mode nobody else pushes or takes the received byte. -/
structure Undisturbed (s t : State) : Prop where
  cur : t.fgCur = s.fgCur
  params : t.params = s.params
  tail : t.tail = s.tail
  txen : t.txen = s.txen
  copy : ∀ h, headCopyOk s h → headCopyOk t h
  oldest : ∀ v, s.head ≠ s.tail → Memory.read s.storage s.tail = some v → Memory.read t.storage s.tail = some v
  polled : s.params.rxMode = .polled → t.head = s.head ∧ t.storage = s.storage ∧ (s.rxready = true → t.rxready = true)
  txempty : s.txempty = true → t.txempty = true

theorem Undisturbed.inFlightOk {s t : State} (hinv : Inv s) (h : Undisturbed s t) : inFlightOk t := by
  have hok := hinv.in_flight
  obtain ⟨hcur, hparams, htail, htxen, hcopy, holdest, hpolled, htxempty⟩ := h
  unfold Machine.inFlightOk at hok ⊢
  rw [hcur]
  rw [hparams, htail, htxen]
  cases hc : s.fgCur with
  | none => trivial
  | some c =>
    rw [hc] at hok
    cases c with
    | read2 h => exact hcopy h hok
    | read3 h u => exact ⟨hcopy h hok.1, hok.2⟩
    | read4 h u v =>
      obtain ⟨hh, rfl, hne, hv⟩ := hok
      exact ⟨hcopy h hh, rfl, hne, holdest v (hh.head_ne_tail hinv.tail_lt hne) hv⟩
    | peek2 h => exact hcopy h hok
    | peek3 h u => exact ⟨hcopy h hok.1, hok.2⟩
    | avail2 h => exact hcopy h hok
    | flush2 h => exact hcopy h hok
    | poll2 => exact ⟨hok.1, (hpolled hok.1).2.2 hok.2⟩
    | poll3 v => exact hok
    | poll4 v h => exact ⟨hok.1, (hpolled hok.1).1 ▸ hok.2⟩
    | poll5 v h u => exact ⟨hok.1, (hpolled hok.1).1 ▸ hok.2⟩
    | poll6 v h u =>
      obtain ⟨hhead, hstorage, -⟩ := hpolled hok.1
      exact ⟨hok.1, hhead ▸ hstorage ▸ hok.2⟩
    | write1 v => exact hok
    | write2 v => exact ⟨hok.1, htxempty hok.2⟩

/-- R66, R67: a whole push, which only INTERRUPT mode has, leaves a request in flight what it relies on. -/
theorem Undisturbed.of_store {s t : State} {b : Byte} (hinv : Inv s) (hm : s.params.rxMode = .interrupt)
    (hroom : nextCursor s.params s.head ≠ s.tail) (hcur : t.fgCur = s.fgCur)
    (hring : t.ring = (s.params, Memory.write s.storage s.head b, nextCursor s.params s.head, s.tail))
    (htxen : t.txen = s.txen) (htxempty : t.txempty = s.txempty) : Undisturbed s t := by
  obtain ⟨hp, hmem, hh, ht⟩ := ring_eq_iff.mp hring
  have hcount : t.unreadCount = s.unreadCount + 1 := by
    unfold State.unreadCount
    rw [hp, hh, ht, countBetween_nextCursor hinv.head_lt hinv.tail_lt hroom]
  exact {
    cur := hcur
    params := hp
    tail := ht
    txen := htxen
    copy := fun h hc => by
      unfold headCopyOk
      rw [hp, ht, hcount]
      exact ⟨hc.1, hc.2.trans (Nat.le_succ _)⟩
    oldest := fun v hne hv => by rwa [hmem, Memory.read_write_of_ne hne]
    polled := fun hpolled => by simp [hm] at hpolled
    txempty := fun he => htxempty.trans he }

/-- A step that leaves the ring buffer alone leaves a request in flight what it relies on. -/
theorem Undisturbed.of_ring_eq {s t : State} (hcur : t.fgCur = s.fgCur) (hring : t.ring = s.ring)
    (htxen : t.txen = s.txen) (hready : s.params.rxMode = .polled → s.rxready = true → t.rxready = true)
    (htxempty : s.txempty = true → t.txempty = true) : Undisturbed s t := by
  obtain ⟨hp, hmem, hh, ht⟩ := ring_eq_iff.mp hring
  exact {
    cur := hcur
    params := hp
    tail := ht
    txen := htxen
    copy := fun h hc => by
      unfold headCopyOk State.unreadCount
      rw [hp, hh, ht]
      exact hc
    oldest := fun v _ hv => by rwa [hmem]
    polled := fun hpolled => ⟨hh, hmem, hready hpolled⟩
    txempty := htxempty }

/-- R126: the interrupt is requested in INTERRUPT mode only. -/
theorem mode_of_interruptRequested {s : State} (h : interruptRequested s = true) : s.params.rxMode = .interrupt :=
  (interruptRequested_iff.mp h).1

/-- R100 to R102: an arriving byte does not clear "byte ready". -/
theorem arriveByte_rxready {s : State} (b : Byte) (k : Bool) (h : s.rxready = true) :
    (arriveByte b k s).rxready = true := by
  unfold arriveByte
  split_ifs <;> exact h

/-- R111: TX_DRAIN does not fill the transmit register. -/
theorem drainByte_txempty {s : State} (h : s.txempty = true) : (drainByte s).txempty = true := by
  unfold drainByte
  split
  · rfl
  · exact h

/-- R66: a head copied now is good, and spans what is unread. -/
theorem headCopyOk_head {s : State} (hinv : Inv s) : headCopyOk s s.head := ⟨hinv.head_lt, le_rfl⟩

/-- R43, R66: the locals of the request in flight stay good: FG's micro-steps fill them in order, and no other agent's
step disturbs them. -/
theorem Effect.inFlightOk {s t : State} {a : AgentStep} (hinv : Inv s) (h : Effect s a t) : inFlightOk t := by
  have hok := hinv.in_flight
  cases h
  case hold | fault | pushDrop => exact hok
  case pushStore hm hroom _ => exact Undisturbed.inFlightOk hinv (.of_store hinv hm hroom rfl rfl rfl rfl)
  case rxsvcStore hr hroom _ _ =>
    exact Undisturbed.inFlightOk hinv (.of_store hinv (mode_of_interruptRequested hr) hroom rfl rfl rfl rfl)
  case rxsvcDrop hr _ _ =>
    have hnot : s.params.rxMode ≠ .polled := by simp [mode_of_interruptRequested hr]
    exact Undisturbed.inFlightOk hinv (.of_ring_eq rfl rfl rfl (fun hm => absurd hm hnot) id)
  case arrive b k =>
    rw [arriveByte_eq]
    exact Undisturbed.inFlightOk hinv (.of_ring_eq rfl rfl rfl (fun _ => arriveByte_rxready b k) id)
  case drain =>
    rw [drainByte_eq]
    exact Undisturbed.inFlightOk hinv (.of_ring_eq rfl rfl rfl (fun _ => id) drainByte_txempty)
  case readStart | peekStart | availStart | flushStart => exact headCopyOk_head hinv
  case readTail hc hne | peekTail hc hne => simp only [Machine.inFlightOk, hc] at hok; exact ⟨hok, rfl, hne⟩
  case readLoad h u v hc hv =>
    simp only [Machine.inFlightOk, hc] at hok
    obtain ⟨hcopy, htail, hne⟩ := hok
    exact ⟨hcopy, htail, hne, hv⟩
  case pollStart hm hr => exact ⟨hm, hr⟩
  case pollTake hc => simp only [Machine.inFlightOk, hc] at hok; exact hok.1
  case pollHead v hc => simp only [Machine.inFlightOk, hc] at hok; exact ⟨hok, rfl⟩
  case pollTail v h hc hroom =>
    simp only [Machine.inFlightOk, hc] at hok
    obtain ⟨hm, hh⟩ := hok
    exact ⟨hm, hh, rfl, hroom⟩
  case pollStore v h u hc _ =>
    simp only [Machine.inFlightOk, hc] at hok
    obtain ⟨hm, hh, hu, hroom⟩ := hok
    exact ⟨hm, hh, hu, hroom, Memory.read_write_same ..⟩
  case writeStart b hc hi hen =>
    unfold pollTxEmpty
    split
    case isTrue he => exact ⟨hen, he⟩
    case isFalse => exact hen
  case writePoll b hc =>
    simp only [Machine.inFlightOk, hc] at hok
    unfold pollTxEmpty
    split
    case isTrue he => exact ⟨hok, he⟩
    case isFalse => exact hok
  all_goals trivial

/-- R42, R43: the request in flight is the program's own. -/
theorem FgStep.issued {s t : State} {a : AgentStep} (hinv : Inv s) (h : FgStep s a t) (hprog : t.fgProg = s.fgProg) :
    inFlightIssued t := by
  intro c hc
  cases h with
  | idle cur pc log => rw [hprog, pc]; exact hinv.issued c (cur ▸ hc)
  | goOn d agent cur pc log running =>
    obtain rfl : d = c := Option.some.inj (cur.symm.trans hc)
    rw [hprog, pc]
    exact running.issued hinv
  | complete i r agent cur pc log running => rw [cur] at hc; cases hc

/-- R42: only a request of the program completes, so FG.pc does not pass its end. -/
theorem FgStep.pc_le {s t : State} {a : AgentStep} (hinv : Inv s) (h : FgStep s a t) (hprog : t.fgProg = s.fgProg) :
    t.fgPc ≤ t.fgProg.length := by
  rw [hprog]
  cases h with
  | idle cur pc log => exact pc ▸ hinv.pc_le
  | goOn d agent cur pc log running => exact pc ▸ hinv.pc_le
  | complete i r agent cur pc log running => exact pc ▸ (running.issued hinv).pc_lt

/-! ### The transmit side (R113, R114) -/

theorem writtenBytes_append_write (log : List LogEntry) (b : Byte) (r : Result) :
    writtenBytes (log ++ [⟨.write b, r⟩]) = writtenBytes log ++ [b] := by
  simp [writtenBytes]

theorem writtenBytes_append_of_ne_write (log : List LogEntry) {i : Instr} (hi : ∀ b, i ≠ .write b) (r : Result) :
    writtenBytes (log ++ [⟨i, r⟩]) = writtenBytes log := by
  cases i with
  | write b => exact absurd rfl (hi b)
  | _ => simp [writtenBytes]

/-- R111: TX_DRAIN moves the waiting byte to the line. -/
theorem transmitted_drainByte (s : State) : transmitted (drainByte s) = transmitted s := by
  unfold drainByte
  split
  case isTrue hen =>
    have hfull : s.txempty = false := by simp only [drainEnabled, Bool.and_eq_true, Bool.not_eq_true'] at hen; exact hen.2
    simp [transmitted, takeTx, hfull]
  case isFalse => rfl

/-- R113, R114: the bytes transmitted or waiting and those of the logged WRITEs stay as they are, or both get the byte
of the WRITE that completes. -/
theorem Effect.transmitted {s t : State} {a : AgentStep} (hinv : Inv s) (h : Effect s a t) :
    (transmitted t = transmitted s ∧ writtenBytes t.fgLog = writtenBytes s.fgLog) ∨
      ∃ b, transmitted t = transmitted s ++ [b] ∧ t.fgLog = s.fgLog ++ [⟨.write b, .done⟩] := by
  cases h
  case writeDone b hc =>
    have hok := hinv.in_flight
    simp only [Machine.inFlightOk, hc] at hok
    exact .inr ⟨b, by simp [Machine.transmitted, hok.2], rfl⟩
  case arrive b k => rw [arriveByte_eq]; exact .inl ⟨rfl, rfl⟩
  case drain => exact .inl ⟨transmitted_drainByte s, by rw [drainByte_eq]⟩
  case writeStart | writePoll => rw [pollTxEmpty_eq_goTo]; exact .inl ⟨rfl, rfl⟩
  case readEmpty | readDone | peekEmpty | peekDone | availDone | flushDone | pollNone | pollDrop | pollDone | openDone
      | closeDone =>
    exact .inl ⟨rfl, writtenBytes_append_of_ne_write _ (by simp) _⟩
  all_goals exact .inl ⟨rfl, rfl⟩

/-! ### The invariant -/

/-- The invariant says nothing of the choices of the agents. -/
theorem Inv.withChoices {s : State} (h : Inv s) (l : List AgentStep) (k : Nat) :
    Inv { s with schedule := l, freeCount := k } :=
  ⟨h.storage_wf, h.storage_slots, h.head_lt, h.tail_lt, h.enables, h.written, h.pc_le, h.in_flight, h.issued, h.transmit⟩

theorem Inv.consumeChoice {s : State} (h : Inv s) : Inv (consumeChoice s) :=
  consumeChoice_eq s ▸ h.withChoices ..

theorem Effect.keeps_inv {s t : State} {a : AgentStep} (hinv : Inv s) (h : Effect s a t) : Inv t := by
  obtain ⟨hparams, hprog, -⟩ := h.constants
  obtain ⟨hhead, htail⟩ := (h.queueStep hinv).cursors_lt hinv
  exact {
    storage_wf := by
      rcases h.storage with hm | ⟨i, b, -, hm⟩ <;> rw [hm]
      · exact hinv.storage_wf
      · exact Memory.write_wf hinv.storage_wf i b
    storage_slots := by
      rw [hparams]
      rcases h.storage with hm | ⟨i, b, hi, hm⟩ <;> rw [hm]
      · exact hinv.storage_slots
      · intro c hc
        rcases Memory.mem_write hc with rfl | hc
        · exact hi
        · exact hinv.storage_slots c hc
    head_lt := hhead
    tail_lt := htail
    enables := by
      rw [State.enables_equal_iff]
      rcases h.enables with hkept | ⟨-, i, on, -, -, hall⟩
      · exact hkept ▸ State.enables_equal_iff.mp hinv.enables
      · exact ⟨on, hall⟩
    written := (h.queueStep hinv).written hinv
    pc_le := h.fgStep.pc_le hinv hprog
    in_flight := h.inFlightOk hinv
    issued := h.fgStep.issued hinv hprog
    transmit := by
      rcases h.transmitted hinv with ⟨hsent, hlog⟩ | ⟨b, hsent, hlog⟩
      · rw [hsent, hlog, hinv.transmit]
      · rw [hsent, hlog, hinv.transmit, writtenBytes_append_write] }

end Sys2Proof.Machine

open Sys2Proof Sys2Proof.Machine

/-- Settles O56: the step is an effect from the state whose choice of the agent is used up, and each clause of the
invariant is kept by every effect. -/
theorem stepKeepsTheInvariant : Obligations.StepKeepsTheInvariant := fun _ _ hinv h =>
  (step_effect h).2.keeps_inv hinv.consumeChoice

end

section
/-! PROOFS. The ring buffer as a FIFO queue (R95), one step and then any number of steps, and what the logs tell of it. -/

namespace Sys2Proof.Machine

@[simp] theorem consumeChoice_unreadBytes (s : State) : unreadBytes (consumeChoice s) = unreadBytes s := by
  simp [unreadBytes, State.unreadCount]

@[simp] theorem consumeChoice_queueEvent (s t : State) : queueEvent (consumeChoice s) t = queueEvent s t := by
  simp [queueEvent]

/-- A run of `k + 1` steps is a step and a run of `k`. -/
theorem run_succ_next {M : Host.Core} {k : Nat} {s s' : M.State} (h : M.run (k + 1) s = .next s') :
    ∃ t, M.step s = .next t ∧ M.run k t = .next s' := by
  rw [Host.Core.run] at h
  cases hs : M.step s with
  | next t => rw [hs] at h; exact ⟨t, rfl, h⟩
  | fault r => rw [hs] at h; cases h
  | refused r => rw [hs] at h; cases h

/-- R95: the slots a copy `c` of the head spans hold one byte each: none is unwritten. -/
theorem bytesFrom_length_of_copy {s : State} {c : Nat} (hinv : Inv s) (hc : headCopyOk s c) :
    (bytesFrom s.params s.storage s.tail (countBetween s.params c s.tail)).length = countBetween s.params c s.tail := by
  refine (List.filterMap_length_eq_length.mpr fun i hi => ?_).trans (slotsFrom_length ..)
  have hunread : i ∈ slotsFrom s.params s.tail (countBetween s.params s.head s.tail) := by
    rw [slotsFrom_split hinv.head_lt hc.1 hinv.tail_lt hc.2]
    exact List.mem_append_left _ hi
  exact hinv.written i hunread

/-- R95: each change of the ring buffer does to the unread bytes what its event does to a FIFO queue: a byte pushed is
appended, the byte taken was the oldest, and a FLUSH discards the bytes before its copy of the head. -/
theorem QueueStep.apply_unreadBytes {s t : State} {e : QueueEvent} (hinv : Inv s) (h : QueueStep s t e) :
    e.apply (unreadBytes s) = some (unreadBytes t) := by
  have hh := hinv.head_lt
  have ht := hinv.tail_lt
  have hs : unreadBytes s = bytesFrom s.params s.storage s.tail (countBetween s.params s.head s.tail) := rfl
  cases h with
  | idle ring => rw [unreadBytes_of_ring ring, hs, QueueEvent.apply]
  | slot b ring =>
    rw [unreadBytes_of_ring ring, bytesFrom_congr hh ht fun j hj => Memory.read_write_of_ne hj.symm .., hs,
      QueueEvent.apply]
  | push b m room stored others ring =>
    rw [unreadBytes_of_ring ring, bytesFrom_nextCursor hh ht room stored, bytesFrom_congr hh ht others, hs,
      QueueEvent.apply]
  | take v nonempty oldest ring =>
    rw [unreadBytes_of_ring ring, hs, bytesFrom_tail hh ht nonempty oldest]
    exact if_pos rfl
  | flush c copy ring =>
    have hlen := bytesFrom_length_of_copy hinv copy
    rw [unreadBytes_of_ring ring, hs, bytesFrom_split hh copy.1 ht copy.2, QueueEvent.apply, List.drop_left' hlen,
      if_pos (by rw [List.length_append, hlen]; exact Nat.le_add_right ..)]

end Sys2Proof.Machine

open Sys2Proof Sys2Proof.Machine

/-- Settles O57: whatever the step's effect, what it does to the ring buffer is a `QueueStep` of the step's event. -/
theorem stepsFollowAFifoQueue : Obligations.StepsFollowAFifoQueue := by
  intro s s' hinv h
  simpa using ((step_effect h).2.queueStep hinv.consumeChoice).apply_unreadBytes hinv.consumeChoice

/-- Settles O58, by induction on the number of steps: the first one does its event and keeps the invariant. -/
theorem runsReplayOnAFifoQueue : Obligations.RunsReplayOnAFifoQueue := by
  intro k
  induction k with
  | zero => intro s s' _ h; cases h; rfl
  | succ k ih =>
    intro s s' hinv h
    obtain ⟨t, (hs : step s = .next t), hrest⟩ := run_succ_next h
    simp only [queueEvents, hs, replay, stepsFollowAFifoQueue s t hinv hs]
    exact ih t s' (stepKeepsTheInvariant s t hinv hs) hrest

end

section
/-! PROOFS. The step of each agent (R17, R42, R44, R127): which request it runs, or whose fault it takes. -/

namespace Sys2Proof.Machine

/-- R124: where no fault is set the step is the chosen agent's, of the state whose choice is used up. -/
theorem step_eq_agentStep {s : State} (hs : s.fault = none) : step s = agentStep (nextAgent s) (consumeChoice s) := by
  rw [step, takeStep, unlessFaulted_none hs]

@[simp] theorem consumeChoice_interruptRequested (s : State) :
    interruptRequested (consumeChoice s) = interruptRequested s := by
  simp [interruptRequested]

@[simp] theorem consumeChoice_producerHolds (i : Instr) (s : State) :
    producerHolds i (consumeChoice s) = producerHolds i s := by
  simp [producerHolds]

theorem producerHolds_eq_false_iff {i : Instr} {s : State} :
    producerHolds i s = false ↔ (i = .rxsvc → interruptRequested s = true) := by
  by_cases hi : i = .rxsvc <;> simp [producerHolds, hi]

/-- R42: FG issues its next request where that decodes. -/
theorem foregroundStep_of_ok {s : State} {r : Request} {i : Instr} (hc : s.fgCur = none)
    (hr : s.fgProg[s.fgPc]? = some r) (hd : decode .consumer r = .ok i) : foregroundStep s = exec i s := by
  simp [foregroundStep, hc, hr, hd]

/-- R79: FG takes the decoding fault of its next request where that is malformed. -/
theorem foregroundStep_of_error {s : State} {r : Request} {code : FaultCode} (hc : s.fgCur = none)
    (hr : s.fgProg[s.fgPc]? = some r) (hd : decode .consumer r = .error code) :
    foregroundStep s = raise code .consumer r s := by
  simp [foregroundStep, hc, hr, hd]

/-- R43: FG goes on with its request in flight. -/
theorem foregroundStep_of_inFlight {s : State} {c : InFlight} (hc : s.fgCur = some c) :
    foregroundStep s = exec c.request s := by
  simp [foregroundStep, hc]

theorem step_foreground {s : State} (hs : s.fault = none) (ha : nextAgent s = .foreground) :
    step s = foregroundStep (consumeChoice s) := by
  rw [step_eq_agentStep hs, ha, agentStep]

theorem step_producer {s : State} (hs : s.fault = none) (ha : nextAgent s = .producer) :
    step s = producerStep (consumeChoice s) := by
  rw [step_eq_agentStep hs, ha, agentStep]

theorem step_interrupt {s : State} (hs : s.fault = none) (ha : nextAgent s = .interrupt) :
    step s = exec .rxsvc (consumeChoice s) := by
  rw [step_eq_agentStep hs, ha, agentStep, interruptStep]

/-- R44: the producer's step on a request that it does not hold. -/
theorem producerStep_of_ok {s : State} {r : Request} {rest : List Request} {i : Instr} (hq : s.prQueue = r :: rest)
    (hd : decode .producer r = .ok i) (hh : producerHolds i s = false) :
    producerStep s = dequeue rest (exec i s) := by
  simp [producerStep, hq, hd, hh]

end Sys2Proof.Machine

open Sys2Proof Sys2Proof.Machine

/-- Settles O6: FG, with nothing in flight, runs what its next request decodes to, or takes the decoding fault. -/
theorem stepIssuesTheForegroundRequest : Obligations.StepIssuesTheForegroundRequest := by
  intro s r hs ha hc hr
  have hc' : (consumeChoice s).fgCur = none := by simpa using hc
  have hr' : (consumeChoice s).fgProg[(consumeChoice s).fgPc]? = some r := by simpa using hr
  rw [step_foreground hs ha]
  refine ⟨fun i hd => foregroundStep_of_ok hc' hr' hd, fun code hd => ?error⟩
  rw [foregroundStep_of_error hc' hr' hd]
  simp [raise, faultRecord]

/-- Settles O7: a request in flight goes on; past the end of the program there is none to issue. -/
theorem stepContinuesTheForegroundRequest : Obligations.StepContinuesTheForegroundRequest := by
  intro s hs ha
  rw [step_foreground hs ha]
  refine ⟨fun c hc => foregroundStep_of_inFlight (by simpa using hc), fun hc hpc => ?atEnd⟩
  simp [foregroundStep, hc, hpc, hold]

/-- Settles O8: PR runs the head of its queue unless it holds, and `dequeue` takes the head off where no fault is set. -/
theorem stepRunsTheProducerRequest : Obligations.StepRunsTheProducerRequest := by
  intro s r rest hs ha hq
  have hq' : (consumeChoice s).prQueue = r :: rest := by simpa using hq
  rw [step_producer hs ha]
  refine ⟨fun i t hd hh hx ht => ?completes, fun i t hd hh hx ht => ?faults, fun hd hh => ?holds, fun code hd => ?malformed⟩
  case completes =>
    rw [producerStep_of_ok hq' hd (by simpa using producerHolds_eq_false_iff.mpr hh), hx]
    simp [dequeue, ht]
  case faults =>
    rw [producerStep_of_ok hq' hd (by simpa using producerHolds_eq_false_iff.mpr hh), hx]
    simp [dequeue, Option.isSome_iff_ne_none.mpr ht]
  case holds => simp [producerStep, hq, hd, producerHolds, hh, hold]
  case malformed => simp [producerStep, hq, hd, raise, faultRecord]

/-- Settles O9: the interrupt's delivery is RXSVC itself. -/
theorem stepDeliversTheReceiveInterrupt : Obligations.StepDeliversTheReceiveInterrupt := fun _ hs ha =>
  step_interrupt hs ha

end

section
/-! PROOFS. The state after reset (R138, R140): its cursors are equal, so no slot is unread. -/

namespace Sys2Proof.Machine

theorem countBetween_self {p : Params} {c : Nat} (hc : c < p.n) : countBetween p c c = 0 :=
  (countBetween_eq_zero_iff hc hc).mpr rfl

theorem resetWith_unreadCount (p : Params) (u : PowerUp) (prog queue : List Request) (sched : List AgentStep) :
    (State.resetWith p u prog queue sched).unreadCount = 0 :=
  countBetween_self (Params.n_pos p)

end Sys2Proof.Machine

open Sys2Proof Sys2Proof.Machine

/-- Settles O10: the cursors are both 0, so nothing is unread, and "byte ready" is 0, so nothing is requested. -/
theorem resetLeavesTheStatedValues : Obligations.ResetLeavesTheStatedValues := by
  intro p u prog queue sched s
  have hunread : unreadBytes s = [] := by rw [unreadBytes, resetWith_unreadCount, bytesFrom_zero]
  have hrequest : interruptRequested s = false := by simp [interruptRequested, s, State.resetWith]
  exact ⟨rfl, rfl, rfl, rfl, rfl, rfl, rfl, rfl, rfl, rfl, rfl, rfl, rfl, rfl, rfl, rfl, rfl, hunread, hrequest⟩

/-- Settles O11: nothing is stored, unread, in flight or logged. -/
theorem resetMeetsTheInvariant : Obligations.ResetMeetsTheInvariant := by
  intro p u prog queue sched
  exact {
    storage_wf := rfl
    storage_slots := fun c hc => by cases hc
    head_lt := (Params.n_pos p)
    tail_lt := (Params.n_pos p)
    enables := ⟨rfl, rfl, rfl⟩
    written := by
      unfold unreadWritten
      rw [resetWith_unreadCount]
      intro i hi
      cases hi
    pc_le := Nat.zero_le _
    in_flight := trivial
    issued := fun c hc => by cases hc
    transmit := rfl }

end

section
/-! PROOFS. The faults the operations raise themselves (R120, R121) and what they record. -/

namespace Sys2Proof.Machine

/-- R121: the argument that a fault record of a well-formed request holds. -/
def recordedArg : Instr → Option ArgWord
  | .openLine baud => some baud
  | _ => none

/-- R76: the encoder's words hold `ARG` for OPEN only. -/
theorem encode_presentArg (i : Instr) : (encode i).presentArg = recordedArg i := by
  obtain ⟨-, hop, -⟩ := encode_fields i
  unfold Request.presentArg
  rw [hop]
  cases i <;> rfl

theorem encode_push_req (b : Byte) : (encode (.push b)).req = 0x10#8 ++ b :=
  congrArg (· ++ b) (show 0x1#4 ++ 0#4 = 0x10#8 by decide)

theorem encode_write_req (b : Byte) : (encode (.write b)).req = 0xA0#8 ++ b :=
  congrArg (· ++ b) (show 0xA#4 ++ 0#4 = 0xA0#8 by decide)

/-- R121: the record of a fault of the operation's own. -/
def ownRecord (code : FaultCode) (i : Instr) (s : State) : FaultRecord where
  code := code
  port := i.port
  req := (encode i).req
  arg := recordedArg i
  fgPc := if i.port = .consumer then some s.fgPc else none

theorem raiseOwn_eq (code : FaultCode) (i : Instr) (s : State) :
    raiseOwn code i s = .next { s with fault := some (ownRecord code i s) } := by
  unfold ownRecord
  rw [← encode_presentArg]
  cases i <;> rfl

theorem loadSlot_of_unwritten {req : Instr} {i : Nat} {s : State} {k : Byte → Out} (hi : i < s.params.n)
    (hr : Memory.read s.storage i = none) : loadSlot req i s k = raiseOwn .unwrittenRead req s := by
  simp [loadSlot, hi, hr]

end Sys2Proof.Machine

open Sys2Proof Sys2Proof.Machine

/-- Settles O14: each check stands before its operation's first micro-step, and `raiseOwn_eq` says what it records. -/
theorem operationChecksTakeTheirFaults : Obligations.OperationChecksTakeTheirFaults := by
  intro s hs
  refine ⟨fun b hm => ?push, fun hc hm => ?poll, fun b hc hen => ?write, fun hc => ?openZero⟩
  case push =>
    have hraise : exec (.push b) s = raiseOwn .producerInPolledMode (.push b) s := by
      rw [exec, execPush, unlessFaulted_none hs, if_pos hm]
    rw [hraise, raiseOwn_eq, ownRecord, encode_push_req]
    rfl
  case poll =>
    have hraise : exec .poll s = raiseOwn .pollInInterruptMode .poll s := by
      simp [exec, execPoll, unlessFaulted_none hs, hc, hm]
    rw [hraise, raiseOwn_eq]
    rfl
  case write =>
    have hraise : exec (.write b) s = raiseOwn .txDisabledWrite (.write b) s := by
      simp [exec, execWrite, unlessFaulted_none hs, hc, hen]
    rw [hraise, raiseOwn_eq, ownRecord, encode_write_req]
    rfl
  case openZero =>
    have hraise : exec (.openLine 0) s = raiseOwn .baudZero (.openLine 0) s := by
      simp [exec, execOpen, unlessFaulted_none hs, hc]
    rw [hraise, raiseOwn_eq]
    rfl

/-- Settles O16: the slot exists and has no value, so `loadSlot` raises the fault of the request that reads it. -/
theorem readingAnUnwrittenSlotTakesTheFault : Obligations.ReadingAnUnwrittenSlotTakesTheFault := by
  intro s h t hs ht hr
  refine ⟨fun hc => ?read, fun hc => ?peek⟩
  case read =>
    have hraise : exec .read s = raiseOwn .unwrittenRead .read s := by
      simp [exec, execRead, unlessFaulted_none hs, hc, loadSlot_of_unwritten ht hr]
    rw [hraise, raiseOwn_eq]
    rfl
  case peek =>
    have hraise : exec .peek s = raiseOwn .unwrittenRead .peek s := by
      simp [exec, execPeek, unlessFaulted_none hs, hc, loadSlot_of_unwritten ht hr]
    rw [hraise, raiseOwn_eq]
    rfl

end

section
/-! PROOFS. What a request may change (its frame) and the fault it may take (R121), from one case split for each
request. -/

namespace Sys2Proof.Machine

/-- What each request may change, FG's own state and the fault apart: every field that is not named is unchanged. A
producer's request stores at the head, where the buffer is not full, and POLL in the slot its copy of the head names. -/
def Frame (s t : State) : Instr → Prop
  | .push _ => t = { s with storage := t.storage, head := t.head, prLog := t.prLog, fault := t.fault } ∧
      (t.storage = s.storage ∨ nextCursor s.params s.head ≠ s.tail ∧ ∃ b, t.storage = Memory.write s.storage s.head b)
  | .rxsvc =>
      t = { s with
        storage := t.storage, head := t.head, rxready := t.rxready, prLog := t.prLog, fault := t.fault } ∧
      (t.storage = s.storage ∨ nextCursor s.params s.head ≠ s.tail ∧ ∃ b, t.storage = Memory.write s.storage s.head b)
  | .read => t = { s with tail := t.tail, fgPc := t.fgPc, fgCur := t.fgCur, fgLog := t.fgLog, fault := t.fault }
  | .flush => t = { s with tail := t.tail, fgPc := t.fgPc, fgCur := t.fgCur, fgLog := t.fgLog, fault := t.fault }
  | .peek => t = { s with fgPc := t.fgPc, fgCur := t.fgCur, fgLog := t.fgLog, fault := t.fault }
  | .avail => t = { s with fgPc := t.fgPc, fgCur := t.fgCur, fgLog := t.fgLog, fault := t.fault }
  | .poll =>
      t = { s with
        storage := t.storage, head := t.head, rxready := t.rxready
        fgPc := t.fgPc, fgCur := t.fgCur, fgLog := t.fgLog, fault := t.fault } ∧
      (t.storage = s.storage ∨ ∃ v h u, s.fgCur = some (.poll5 v h u) ∧ t.storage = Memory.write s.storage h v)
  | .openLine _ =>
      t = { s with
        baud := t.baud, dbl := t.dbl, bauddiv := t.bauddiv
        rxen := t.rxen, txen := t.txen, rxie := t.rxie, opened := t.opened
        fgPc := t.fgPc, fgCur := t.fgCur, fgLog := t.fgLog, fault := t.fault }
  | .close =>
      t = { s with
        rxready := t.rxready, rxen := t.rxen, txen := t.txen, rxie := t.rxie, opened := t.opened
        fgPc := t.fgPc, fgCur := t.fgCur, fgLog := t.fgLog, fault := t.fault }
  | .write _ =>
      t = { s with
        txdata := t.txdata, txempty := t.txempty
        fgPc := t.fgPc, fgCur := t.fgCur, fgLog := t.fgLog, fault := t.fault }

theorem Frame.of_fault (s : State) (f : Option FaultRecord) (i : Instr) : Frame s { s with fault := f } i := by
  cases i with
  | push b => exact ⟨rfl, .inl rfl⟩
  | rxsvc => exact ⟨rfl, .inl rfl⟩
  | poll => exact ⟨rfl, .inl rfl⟩
  | _ => rfl

/-- What a request that goes on did: it stayed within its frame, and took no fault or nothing but its fault. -/
structure ExecNext (i : Instr) (s t : State) : Prop where
  frame : Frame s t i
  fault : t.fault = none ∨ ∃ code, t = { s with fault := some (ownRecord code i s) }

theorem ExecNext.of_raiseOwn {code : FaultCode} {i : Instr} {s t : State} (h : raiseOwn code i s = .next t) :
    ExecNext i s t := by
  rw [raiseOwn_eq] at h
  cases h
  exact ⟨.of_fault .., .inr ⟨code, rfl⟩⟩

variable {s t : State} {b : Byte}

theorem exec_push_next (h : exec (.push b) s = .next t) : ExecNext (.push b) s t := by
  obtain ⟨hs, h⟩ := unlessFaulted_next h
  split at h
  · exact .of_raiseOwn h
  · obtain ⟨-, h⟩ | ⟨hroom, -, h⟩ := pushCore_next h
    · cases h; exact ⟨⟨rfl, .inl rfl⟩, .inl hs⟩
    · cases h; exact ⟨⟨rfl, .inr ⟨hroom, b, rfl⟩⟩, .inl hs⟩

theorem exec_rxsvc_next (h : exec .rxsvc s = .next t) : ExecNext .rxsvc s t := by
  obtain ⟨hs, h⟩ := unlessFaulted_next h
  split at h
  · obtain ⟨-, h⟩ | ⟨hroom, -, h⟩ := pushCore_next h
    · cases h; exact ⟨⟨rfl, .inl rfl⟩, .inl hs⟩
    · cases h; exact ⟨⟨rfl, .inr ⟨hroom, s.rxdata, rfl⟩⟩, .inl hs⟩
  · cases h; exact ⟨⟨rfl, .inl rfl⟩, .inl hs⟩

theorem exec_read_next (h : exec .read s = .next t) : ExecNext .read s t := by
  obtain ⟨hs, h⟩ := unlessFaulted_next h
  split at h
  case h_3 =>
    obtain ⟨-, ⟨v, -, h⟩ | ⟨-, h⟩⟩ := loadSlot_next h
    · cases h; exact ⟨rfl, .inl hs⟩
    · exact .of_raiseOwn h
  case h_2 => split at h <;> cases h <;> exact ⟨rfl, .inl hs⟩
  all_goals cases h; exact ⟨rfl, .inl hs⟩

theorem exec_peek_next (h : exec .peek s = .next t) : ExecNext .peek s t := by
  obtain ⟨hs, h⟩ := unlessFaulted_next h
  split at h
  case h_3 =>
    obtain ⟨-, ⟨v, -, h⟩ | ⟨-, h⟩⟩ := loadSlot_next h
    · cases h; exact ⟨rfl, .inl hs⟩
    · exact .of_raiseOwn h
  case h_2 => split at h <;> cases h <;> exact ⟨rfl, .inl hs⟩
  all_goals cases h; exact ⟨rfl, .inl hs⟩

theorem exec_avail_next (h : exec .avail s = .next t) : ExecNext .avail s t := by
  obtain ⟨hs, h⟩ := unlessFaulted_next h
  split at h <;> cases h <;> exact ⟨rfl, .inl hs⟩

theorem exec_flush_next (h : exec .flush s = .next t) : ExecNext .flush s t := by
  obtain ⟨hs, h⟩ := unlessFaulted_next h
  split at h <;> cases h <;> exact ⟨rfl, .inl hs⟩

theorem exec_poll_next (h : exec .poll s = .next t) : ExecNext .poll s t := by
  obtain ⟨hs, h⟩ := unlessFaulted_next h
  split at h
  case h_1 =>
    split at h
    · exact .of_raiseOwn h
    · split at h <;> cases h <;> exact ⟨⟨rfl, .inl rfl⟩, .inl hs⟩
  case h_4 => split at h <;> cases h <;> exact ⟨⟨rfl, .inl rfl⟩, .inl hs⟩
  case h_5 v x u hc =>
    obtain ⟨-, h⟩ := storeSlot_next h
    cases h; exact ⟨⟨rfl, .inr ⟨v, x, u, hc, rfl⟩⟩, .inl hs⟩
  all_goals cases h; exact ⟨⟨rfl, .inl rfl⟩, .inl hs⟩

theorem exec_openLine_next {baud : ArgWord} (h : exec (.openLine baud) s = .next t) :
    ExecNext (.openLine baud) s t := by
  obtain ⟨hs, h⟩ := unlessFaulted_next h
  split at h
  · split at h
    · exact .of_raiseOwn h
    · cases h; exact ⟨rfl, .inl hs⟩
  · cases h; exact ⟨rfl, .inl hs⟩

theorem exec_close_next (h : exec .close s = .next t) : ExecNext .close s t := by
  obtain ⟨hs, h⟩ := unlessFaulted_next h
  split at h <;> cases h <;> exact ⟨rfl, .inl hs⟩

theorem exec_write_next (h : exec (.write b) s = .next t) : ExecNext (.write b) s t := by
  obtain ⟨hs, h⟩ := unlessFaulted_next h
  have hpoll : ExecNext (.write b) s (pollTxEmpty b s) := by
    rw [pollTxEmpty_eq_goTo]; exact ⟨rfl, .inl hs⟩
  split at h
  · split at h
    · cases h; exact hpoll
    · exact .of_raiseOwn h
  · split at h <;> cases h
    · exact hpoll
    · exact ⟨rfl, .inl hs⟩
  · split at h <;> cases h <;> exact ⟨rfl, .inl hs⟩
  · cases h; exact ⟨rfl, .inl hs⟩

theorem exec_next {i : Instr} (h : exec i s = .next t) : ExecNext i s t := by
  cases i with
  | push b => exact exec_push_next h
  | rxsvc => exact exec_rxsvc_next h
  | read => exact exec_read_next h
  | peek => exact exec_peek_next h
  | avail => exact exec_avail_next h
  | flush => exact exec_flush_next h
  | poll => exact exec_poll_next h
  | openLine baud => exact exec_openLine_next h
  | close => exact exec_close_next h
  | write b => exact exec_write_next h

end Sys2Proof.Machine

open Sys2Proof Sys2Proof.Machine

/-- Settles O13: a request that goes on either takes no fault or writes nothing but the record of its own. -/
theorem faultingRequestWritesOnlyTheRecord : Obligations.FaultingRequestWritesOnlyTheRecord := by
  intro i s t f h hf
  obtain hnone | ⟨code, rfl⟩ := (exec_next h).fault
  · rw [hnone] at hf; cases hf
  · obtain rfl : ownRecord code i s = f := Option.some.inj hf
    exact ⟨rfl, rfl, rfl, by cases i <;> rfl, rfl⟩

/-- Settles O49: within these frames the storage, and with PEEK and AVAIL the tail, is the old one. -/
theorem consumerRequestsFrame : Obligations.ConsumerRequestsFrame := by
  intro i s t hi h
  have hframe := (exec_next h).frame
  rcases hi with rfl | rfl | rfl | rfl <;> rw [Frame] at hframe
  case inl => exact ⟨hframe, by simp, fun a => by rw [hframe]⟩
  case inr.inr.inr => exact ⟨hframe, by simp, fun a => by rw [hframe]⟩
  all_goals
    refine ⟨?_, fun _ => by rw [hframe], fun a => by rw [hframe]⟩
    rw [hframe]

/-- Settles O50: the storage is the old one or, where the buffer is not full, has a byte written at the head. -/
theorem producerRequestsFrame : Obligations.ProducerRequestsFrame := by
  intro i s t hp h
  have hslots (hstorage : t.storage = s.storage ∨
      nextCursor s.params s.head ≠ s.tail ∧ ∃ b, t.storage = Memory.write s.storage s.head b) :
      (∀ a, a ≠ s.head → Memory.read t.storage a = Memory.read s.storage a) ∧
      ((s.head + 1) % s.params.n = s.tail → t.storage = s.storage) := by
    rcases hstorage with hsame | ⟨hroom, b, hwrite⟩
    · exact ⟨fun a _ => by rw [hsame], fun _ => hsame⟩
    · exact ⟨fun a ha => by rw [hwrite, Memory.read_write_of_ne ha.symm], fun hfull => absurd hfull hroom⟩
  have hframe := (exec_next h).frame
  cases i with
  | push b =>
    obtain ⟨hframe, hstorage⟩ := hframe
    refine ⟨?_, fun _ => by rw [hframe], hslots hstorage⟩
    rw [hframe]
  | rxsvc => exact ⟨hframe.1, fun hne => absurd rfl hne, hslots hframe.2⟩
  | _ => cases hp

/-- Settles O51: the storage is the old one or has the byte of micro-step 5 written at its copy of the head. -/
theorem pollFrame : Obligations.PollFrame := by
  intro s t h
  obtain ⟨hframe, hstorage⟩ := (exec_next h).frame
  refine ⟨hframe, fun v h k hc a ha => ?stores, fun hc a => ?others⟩
  case stores =>
    obtain hsame | ⟨v', h', k', hc', hwrite⟩ := hstorage
    · rw [hsame]
    · cases hc.symm.trans hc'
      rw [hwrite, Memory.read_write_of_ne ha.symm]
  case others =>
    obtain hsame | ⟨v', h', k', hc', -⟩ := hstorage
    · rw [hsame]
    · exact absurd hc' (hc v' h' k')

/-- Settles O52: these are the frames, and none of them names the storage. -/
theorem transmitAndControlRequestsFrame : Obligations.TransmitAndControlRequestsFrame := by
  intro s t
  refine ⟨fun b h => (exec_next h).frame, fun baud h => (exec_next h).frame, fun h => (exec_next h).frame,
    fun i hi h a => ?_⟩
  have hframe := (exec_next h).frame
  rcases hi with ⟨b, rfl⟩ | ⟨baud, rfl⟩ | rfl <;> rw [Frame] at hframe <;> rw [hframe]

end

section
/-! PROOFS. Each request's micro-steps with no fault set, as equations: the consumer port that is busy (R72), PUSH and
RXSVC whole (R90, R105), POLL (R106), WRITE and TX_DRAIN (R110, R111), OPEN and CLOSE (R116, R117). -/

namespace Sys2Proof.Machine

/-- R72: FG's request in flight keeps the port. -/
theorem exec_of_busy {i : Instr} {c : InFlight} {s : State} (hs : s.fault = none) (hp : i.port = .consumer)
    (hc : s.fgCur = some c) (hne : c.request ≠ i) : exec i s = .next s := by
  cases i with
  | push b => cases hp
  | rxsvc => cases hp
  | read =>
    rw [exec, execRead, unlessFaulted_none hs, hc]
    cases c with
    | read2 _ | read3 _ _ | read4 _ _ _ => exact absurd rfl hne
    | _ => rfl
  | peek =>
    rw [exec, execPeek, unlessFaulted_none hs, hc]
    cases c with
    | peek2 _ | peek3 _ _ => exact absurd rfl hne
    | _ => rfl
  | avail =>
    rw [exec, execAvail, unlessFaulted_none hs, hc]
    cases c with
    | avail2 _ => exact absurd rfl hne
    | _ => rfl
  | flush =>
    rw [exec, execFlush, unlessFaulted_none hs, hc]
    cases c with
    | flush2 _ => exact absurd rfl hne
    | _ => rfl
  | poll =>
    rw [exec, execPoll, unlessFaulted_none hs, hc]
    cases c with
    | poll2 | poll3 _ | poll4 _ _ | poll5 _ _ _ | poll6 _ _ _ => exact absurd rfl hne
    | _ => rfl
  | openLine baud => rw [exec, execOpen, unlessFaulted_none hs, hc]; rfl
  | close => rw [exec, execClose, unlessFaulted_none hs, hc]; rfl
  | write b =>
    rw [exec, execWrite, unlessFaulted_none hs, hc]
    cases c with
    | write1 v => exact if_neg fun hv => hne (congrArg Instr.write hv)
    | write2 v => exact if_neg fun hv => hne (congrArg Instr.write hv)
    | _ => rfl

theorem step_txDrain {s : State} (hs : s.fault = none) (ha : nextAgent s = .txDrain) :
    step s = .next (drainByte (consumeChoice s)) := by
  rw [step_eq_agentStep hs, ha, agentStep]

theorem drainEnabled_iff {s : State} : drainEnabled s = true ↔ s.txen = true ∧ s.txempty = false := by
  simp [drainEnabled]

end Sys2Proof.Machine

open Sys2Proof Sys2Proof.Machine

/-- Settles O22: each request of FG looks for its own micro-steps only. -/
theorem busyPortHoldsAnotherRequest : Obligations.BusyPortHoldsAnotherRequest := fun _ _ _ hs hp hc hne =>
  exec_of_busy hs hp hc hne

/-- Settles O17: the two outcomes of `pushCore`, by the full check. -/
theorem pushStoresOrDropsTheByte : Obligations.PushStoresOrDropsTheByte := by
  intro b s hs hm hh
  split
  case isTrue hfull => rw [exec_push_of_full hs hm hfull, prComplete]
  case isFalse hroom =>
    rw [exec_push_eq_pushCore hs hm, pushCore_of_not_full hh hroom]
    rfl

/-- Settles O32: RXSVC leaves `afterServiceRx`, whose cases are those of the full check. -/
theorem rxsvcTakesTheByteAndPushesIt : Obligations.RxsvcTakesTheByteAndPushesIt := by
  intro s hs hm hie hr hh
  rw [exec_rxsvc_of_requested hs (interruptRequested_iff.mpr ⟨hm, hie, hr⟩) hh, afterServiceRx, nextCursor]
  split_ifs <;> rfl

/-- Settles O33: what is missing is the condition of the interrupt. -/
theorem rxsvcHoldsUnlessRequested : Obligations.RxsvcHoldsUnlessRequested := by
  intro s hs hnot
  rw [exec, execRxsvc, unlessFaulted_none hs, if_neg (mt interruptRequested_iff.mp hnot), hold]

/-- Settles O34: each micro-step is its branch of R106 and R103. -/
theorem pollMicroStepsInOrder : Obligations.PollMicroStepsInOrder := by
  intro s hs
  simp only [exec, execPoll, unlessFaulted_none hs]
  refine ⟨fun hc hm hr => ?nothing, fun hc hm hr => ?ready, fun hc => ?take, fun v hc => ?head,
    fun v h hc hfull => ?drop, fun v h hc hroom => ?tail, fun v h t hc hh => ?store, fun v h t hc => ?done⟩
  case nothing => simp [hc, hm, hr, fgComplete]
  case ready => simp [hc, hm, hr, goTo]
  case take => simp [hc, goTo, clearRxReady]
  case head => simp [hc, goTo]
  case drop => simp [hc, pushFull, nextCursor, hfull, fgComplete]
  case tail => simp [hc, pushFull, nextCursor, hroom, goTo]
  case store => simp [hc, storeSlot, hh, goTo]
  case done => simp [hc, fgComplete, advanceHead, nextCursor]

/-- Settles O38: each micro-step is its branch of R110; the first one looks at txen, the others only at txempty. -/
theorem writeMicroStepsInOrder : Obligations.WriteMicroStepsInOrder := by
  intro b s hs
  simp only [exec, execWrite, unlessFaulted_none hs]
  refine ⟨fun hc hen he => ?wait, fun hc hen he => ?go, fun hc he => ?waitOn, fun hc he => ?goOn, fun hc => ?deposit⟩
  case wait => simp [hc, hen, he, pollTxEmpty, goTo]
  case go => simp [hc, hen, he, pollTxEmpty, goTo]
  case waitOn =>
    have hsame : goTo (.write1 b) s = s := by rw [goTo, ← hc]
    simp [hc, he, pollTxEmpty, hsame]
  case goOn => simp [hc, he, pollTxEmpty, goTo]
  case deposit => simp [hc, fgComplete, depositTx]

/-- Settles O39: `drainByte` takes the byte exactly where TX_DRAIN is enabled. -/
theorem drainSendsTheByteWhereEnabled : Obligations.DrainSendsTheByteWhereEnabled := by
  intro s hs ha
  rw [step_txDrain hs ha, drainByte]
  refine ⟨fun hen he => ?enabled, fun hnot => ?disabled⟩
  case enabled => rw [if_pos (drainEnabled_iff.mpr (by simpa using ⟨hen, he⟩)), takeTx]; simp
  case disabled => rw [if_neg fun henabled => hnot (by simpa using drainEnabled_iff.mp henabled)]

/-- Settles O45: the bit is `doubleSpeed`, and the rest is what `exec_openLine_of_idle` says. -/
theorem openConfiguresAndEnables : Obligations.OpenConfiguresAndEnables := by
  intro baud s hs hc hb
  exact ⟨doubleSpeed s.params baud, by simp [doubleSpeed], exec_openLine_of_idle hs hc hb⟩

/-- Settles O46. With no fault and nothing in flight CLOSE completes in its one micro-step. -/
theorem closeDisablesAndKeepsTheBuffer : Obligations.CloseDisablesAndKeepsTheBuffer := fun _ hs hc =>
  exec_close_of_idle hs hc

end

section
/-! PROOFS. READ, PEEK, AVAIL and FLUSH with at most a PUSH inside or between them (R91 to R94, R97). -/

namespace Sys2Proof.Machine

variable {s : State} {v : Byte}

/-! ### The micro-steps of READ and PEEK (R91, R92), each from the state the one before it leaves -/

theorem exec_read_start (hs : s.fault = none) (hc : s.fgCur = none) :
    exec .read s = .next (goTo (.read2 s.head) s) := by
  simp [exec, execRead, unlessFaulted_none hs, hc]

theorem exec_read_read2 (hs : s.fault = none) {h : Nat} (hne : h ≠ s.tail) :
    exec .read (goTo (.read2 h) s) = .next (goTo (.read3 h s.tail) s) :=
  (unlessFaulted_none hs _).trans (if_neg hne)

theorem exec_read_read2_of_empty (hs : s.fault = none) {h : Nat} (he : h = s.tail) :
    exec .read (goTo (.read2 h) s) = .next (fgComplete .read (.optByte none) s) :=
  (unlessFaulted_none hs _).trans (if_pos he)

theorem exec_read_read3 (hs : s.fault = none) (h : Nat) {u : Nat} (hu : u < s.params.n)
    (hv : Memory.read s.storage u = some v) : exec .read (goTo (.read3 h u) s) = .next (goTo (.read4 h u v) s) :=
  (unlessFaulted_none hs _).trans (loadSlot_of_read hu hv)

theorem exec_read_read4 (hs : s.fault = none) (h u : Nat) (v : Byte) :
    exec .read (goTo (.read4 h u v) s) = .next (fgComplete .read (.optByte (some v)) (advanceTail u s)) :=
  unlessFaulted_none hs _

theorem exec_peek_start (hs : s.fault = none) (hc : s.fgCur = none) :
    exec .peek s = .next (goTo (.peek2 s.head) s) := by
  simp [exec, execPeek, unlessFaulted_none hs, hc]

theorem exec_peek_peek2 (hs : s.fault = none) {h : Nat} (hne : h ≠ s.tail) :
    exec .peek (goTo (.peek2 h) s) = .next (goTo (.peek3 h s.tail) s) :=
  (unlessFaulted_none hs _).trans (if_neg hne)

theorem exec_peek_peek3 (hs : s.fault = none) (h : Nat) {u : Nat} (hu : u < s.params.n)
    (hv : Memory.read s.storage u = some v) :
    exec .peek (goTo (.peek3 h u) s) = .next (fgComplete .peek (.optByte (some v)) s) :=
  (unlessFaulted_none hs _).trans (loadSlot_of_read (s := goTo (.peek3 h u) s) hu hv)

/-- R91: READ with no other agent's step inside it, of a buffer that is not empty. -/
theorem execTimes_read (hs : s.fault = none) (hc : s.fgCur = none) (ht : s.tail < s.params.n) (hne : s.head ≠ s.tail)
    (hv : Memory.read s.storage s.tail = some v) :
    execTimes .read 4 s = .next (fgComplete .read (.optByte (some v)) (advanceTail s.tail s)) := by
  rw [execTimes_succ_of_next (exec_read_start hs hc), execTimes_succ_of_next (exec_read_read2 hs hne),
    execTimes_succ_of_next (exec_read_read3 hs _ ht hv), execTimes_succ_of_next (exec_read_read4 hs _ _ v), execTimes]

/-- R91: READ of an empty buffer. -/
theorem execTimes_read_of_empty (hs : s.fault = none) (hc : s.fgCur = none) (he : s.head = s.tail) :
    execTimes .read 2 s = .next (fgComplete .read (.optByte none) s) := by
  rw [execTimes_succ_of_next (exec_read_start hs hc), execTimes_succ_of_next (exec_read_read2_of_empty hs he), execTimes]

/-- R92: PEEK with no other agent's step inside it, of a buffer that is not empty. -/
theorem execTimes_peek (hs : s.fault = none) (hc : s.fgCur = none) (ht : s.tail < s.params.n) (hne : s.head ≠ s.tail)
    (hv : Memory.read s.storage s.tail = some v) :
    execTimes .peek 3 s = .next (fgComplete .peek (.optByte (some v)) s) := by
  rw [execTimes_succ_of_next (exec_peek_start hs hc), execTimes_succ_of_next (exec_peek_peek2 hs hne),
    execTimes_succ_of_next (exec_peek_peek3 hs _ ht hv), execTimes]

/-- R25, R26: of a buffer that is not empty the tail's slot holds the oldest byte. -/
theorem Inv.oldest (hinv : Inv s) (hne : s.head ≠ s.tail) :
    ∃ v, Memory.read s.storage s.tail = some v ∧ unreadBytes s =
      v :: bytesFrom s.params s.storage (nextCursor s.params s.tail)
        (countBetween s.params s.head (nextCursor s.params s.tail)) := by
  have hpos : 0 < s.unreadCount := (countBetween_nextCursor_tail hinv.head_lt hinv.tail_lt hne).2
  have hmem : s.tail ∈ slotsFrom s.params s.tail s.unreadCount :=
    (mem_slotsFrom _ _ _ _ hinv.tail_lt).mpr ⟨0, hpos, (Nat.mod_eq_of_lt hinv.tail_lt).symm⟩
  obtain ⟨v, hv⟩ := Option.isSome_iff_exists.mp (hinv.written s.tail hmem)
  exact ⟨v, hv, bytesFrom_tail hinv.head_lt hinv.tail_lt hne hv⟩

theorem Inv.head_ne_tail_of_unread (hinv : Inv s) (hne : unreadBytes s ≠ []) : s.head ≠ s.tail :=
  mt (cursorsTellEmptyFullAndCount s hinv).1.mpr hne

/-- R89, R97: a push leaves the tail and the oldest byte, and the buffer is not empty after it. -/
theorem exec_push_keeps_oldest {u : State} {b : Byte} (hu : exec (.push b) s = .next u) (hs : s.fault = none)
    (hm : s.params.rxMode = .interrupt) (hh : s.head < s.params.n) (hne : s.head ≠ s.tail)
    (hv : Memory.read s.storage s.tail = some v) :
    u.params = s.params ∧ u.tail = s.tail ∧ u.head ≠ u.tail ∧ Memory.read u.storage u.tail = some v ∧
      u.fault = none ∧ u.fgCur = s.fgCur ∧ u.fgLog = s.fgLog := by
  by_cases hfull : nextCursor s.params s.head = s.tail
  · rw [exec_push_of_full hs hm hfull] at hu
    cases hu
    exact ⟨rfl, rfl, hne, hv, hs, rfl, rfl⟩
  · rw [exec_push_eq_pushCore hs hm, pushCore_of_not_full hh hfull] at hu
    cases hu
    exact ⟨rfl, rfl, hfull, (Memory.read_write_of_ne hne ..).trans hv, hs, rfl, rfl⟩

/-- R90: in INTERRUPT mode PUSH goes on. -/
theorem exec_push_goes_on (hs : s.fault = none) (hm : s.params.rxMode = .interrupt) (hh : s.head < s.params.n)
    (b : Byte) : ∃ u, exec (.push b) s = .next u := ⟨_, pushStoresOrDropsTheByte b s hs hm hh⟩

end Sys2Proof.Machine

open Sys2Proof Sys2Proof.Machine

/-- Settles O24: the tail's slot holds the oldest byte, and past it the others are left. -/
theorem readAloneTakesTheOldestByte : Obligations.ReadAloneTakesTheOldestByte := by
  intro s hinv hs hc
  refine ⟨fun v rest hunread => ?some, fun hunread => ?none⟩
  case some =>
    have hne : s.head ≠ s.tail := hinv.head_ne_tail_of_unread (by simp [hunread])
    obtain ⟨w, hw, hall⟩ := hinv.oldest hne
    obtain ⟨rfl, rfl⟩ := List.cons.inj (hunread.symm.trans hall)
    exact ⟨_, execTimes_read hs hc hinv.tail_lt hne hw, rfl, by simp [fgComplete, advanceTail, nextCursor, hc]⟩
  case none =>
    have he : s.head = s.tail := (cursorsTellEmptyFullAndCount s hinv).1.mp hunread
    rw [execTimes_read_of_empty hs hc he]
    simp [fgComplete, hc]

/-- Settles O25: the PEEK changes only FG's own state and the PUSH leaves the tail and its byte, so the READ finds what
the PEEK found. -/
theorem peekThenReadReturnTheSameByte : Obligations.PeekThenReadReturnTheSameByte := by
  intro s b hinv hs hc hm hunread
  have hne : s.head ≠ s.tail := hinv.head_ne_tail_of_unread hunread
  obtain ⟨v, hv, hall⟩ := hinv.oldest hne
  obtain ⟨u, hu⟩ := exec_push_goes_on (s := fgComplete .peek (.optByte (some v)) s) hs hm hinv.head_lt b
  obtain ⟨hparams, htail, hne', hv', hs', hc', hlog⟩ := exec_push_keeps_oldest hu hs hm hinv.head_lt hne hv
  have htail_lt : u.tail < u.params.n := by rw [hparams, htail]; exact hinv.tail_lt
  refine ⟨v, _, u, _, execTimes_peek hs hc hinv.tail_lt hne hv, hu, execTimes_read hs' hc' htail_lt hne' hv',
    ?_, rfl, rfl, ?_⟩
  · rw [hall, List.head?_cons]
  · rw [fgComplete_fgLog, advanceTail_fgLog, hlog]

/-- Settles O26: a head copied now spans the unread bytes, one copied earlier no more than these. -/
theorem availCountsTheUnreadBytes : Obligations.AvailCountsTheUnreadBytes := by
  intro s hinv hs
  refine ⟨fun hc => ?alone, fun h t hc hx => ?late⟩
  case alone =>
    rw [execTimes_avail hs hc, unreadBytes_length hinv.written]
    simp [fgComplete, hc]
  case late =>
    obtain ⟨-, hdone⟩ := availMicroStepsInOrder s hs
    rw [hdone h hc] at hx
    cases hx
    refine ⟨_, rfl, ?_⟩
    have hok := hinv.in_flight
    simp only [inFlightOk, hc] at hok
    exact hok.2.trans_eq (unreadBytes_length hinv.written).symm

/-- Settles O28: FLUSH's copy is the slot the byte is stored in, so the tail comes to stand there. -/
theorem flushSparesAByteStoredInsideIt : Obligations.FlushSparesAByteStoredInsideIt := by
  intro s b hinv hs hm hc hroom
  have hpush := (exec_push_eq_pushCore hs hm b).trans (pushCore_of_not_full hinv.head_lt hroom b _)
  refine ⟨_, _, hpush, (flushMicroStepsInOrder _ ?fault).2 s.head ?cur, rfl, ?bytes⟩
  case fault => exact hs
  case cur => exact hc
  have hmoved := nextCursor_ne_of_room hinv.head_lt hinv.tail_lt hroom
  have hbytes := bytesFrom_nextCursor hinv.head_lt hinv.head_lt hmoved (Memory.read_write_same s.storage s.head b)
  rwa [countBetween_self hinv.head_lt] at hbytes

end

section
/-! PROOFS. What every step keeps apart: the two sides of the controller, the writers of each cursor and of "byte
ready", and the logs. -/

namespace Sys2Proof.Machine

@[simp] theorem consumeChoice_transmitted (s : State) : transmitted (consumeChoice s) = transmitted s := by
  simp [transmitted]

/-! ### The transmit side and the receive side (R115) -/

/-- R37 to R39. -/
def State.transmitSide (s : State) : Byte × Bool × List Byte := (s.txdata, s.txempty, s.txline)

/-- R18 to R20, R35, R36. -/
def State.receiveSide (s : State) : Memory × Nat × Nat × Byte × Bool :=
  (s.storage, s.head, s.tail, s.rxdata, s.rxready)

/-- R115: only WRITE's deposit and TX_DRAIN touch the transmit side, and they touch nothing else. -/
theorem Effect.sides {s t : State} {a : AgentStep} (h : Effect s a t) :
    t.transmitSide = s.transmitSide ∨ t.receiveSide = s.receiveSide := by
  cases h
  case writeDone => exact .inr rfl
  case drain => rw [drainByte_eq]; exact .inr rfl
  case arrive b k => rw [arriveByte_eq]; exact .inl rfl
  case writeStart | writePoll => rw [pollTxEmpty_eq_goTo]; exact .inl rfl
  all_goals exact .inl rfl

/-! ### The writers of the cursors (R65) -/

theorem Effect.head_writer {s t : State} {a : AgentStep} (hinv : Inv s) (h : Effect s a t) :
    t.head = s.head ∨ (s.params.rxMode = .interrupt ∧ (a = .producer ∨ a = .interrupt)) ∨
      (s.params.rxMode = .polled ∧ a = .foreground ∧ ∃ v h t, s.fgCur = some (.poll6 v h t)) := by
  cases h
  case pushStore hm _ _ => exact .inr (.inl ⟨hm, .inl rfl⟩)
  case rxsvcStore hr _ _ ha => exact .inr (.inl ⟨mode_of_interruptRequested hr, ha⟩)
  case pollDone v h u hc =>
    have hok := hinv.in_flight
    simp only [Machine.inFlightOk, hc] at hok
    exact .inr (.inr ⟨hok.1, rfl, v, h, u, hc⟩)
  case drain => rw [drainByte_eq]; exact .inl rfl
  case arrive b k => rw [arriveByte_eq]; exact .inl rfl
  case writeStart | writePoll => rw [pollTxEmpty_eq_goTo]; exact .inl rfl
  all_goals exact .inl rfl

theorem Effect.tail_writer {s t : State} {a : AgentStep} (h : Effect s a t) :
    t.tail = s.tail ∨ (a = .foreground ∧
      ((∃ h t v, s.fgCur = some (.read4 h t v)) ∨ ∃ h, s.fgCur = some (.flush2 h))) := by
  cases h
  case readDone h u v hc => exact .inr ⟨rfl, .inl ⟨h, u, v, hc⟩⟩
  case flushDone h hc => exact .inr ⟨rfl, .inr ⟨h, hc⟩⟩
  case drain => rw [drainByte_eq]; exact .inl rfl
  case arrive b k => rw [arriveByte_eq]; exact .inl rfl
  case writeStart | writePoll => rw [pollTxEmpty_eq_goTo]; exact .inl rfl
  all_goals exact .inl rfl

/-! ### The writers of "byte ready" (R36, R54) -/

/-- What an effect does to "byte ready": nothing, or one of its four writers wrote it. -/
inductive RxReadyStep (s : State) (a : AgentStep) (t : State) : Prop
  | kept (ready : t.rxready = s.rxready)
  | service (agent : a = .producer ∨ a = .interrupt) (requested : interruptRequested s = true)
      (ready : t.rxready = false) (log : t.prLog = s.prLog ++ [⟨.rxsvc, .done⟩])
  | poll (agent : a = .foreground) (cur : s.fgCur = some .poll2) (ready : t.rxready = false)
  | close (agent : a = .foreground) (clears : s.params.closeClearsRx = true) (ready : t.rxready = false)
      (log : t.fgLog = s.fgLog ++ [⟨.close, .done⟩])
  | arrive (b : Byte) (keepNew : Bool) (agent : a = .rxArrive b keepNew) (enabled : s.rxen = true)
      (ready : t.rxready = true) (data : t.rxdata = b)

theorem arriveByte_rxReadyStep (s : State) (b : Byte) (k : Bool) :
    RxReadyStep s (.rxArrive b k) (arriveByte b k s) := by
  cases hen : s.rxen with
  | false => rw [arriveByte_of_disabled hen]; exact .kept rfl
  | true =>
    cases hr : s.rxready with
    | false => rw [arriveByte_of_free hen hr]; exact .arrive b k rfl hen rfl rfl
    | true => rw [arriveByte_of_overrun hen hr]; exact .kept rfl

theorem Effect.rxReadyStep {s t : State} {a : AgentStep} (h : Effect s a t) : RxReadyStep s a t := by
  cases h
  case rxsvcDrop hr _ ha => exact .service ha hr rfl rfl
  case rxsvcStore hr _ _ ha => exact .service ha hr rfl rfl
  case pollTake hc => exact .poll rfl hc rfl
  case closeDone =>
    cases hclears : s.params.closeClearsRx with
    | false => exact .kept (by simp [closeRxReady, hclears])
    | true => exact .close rfl hclears (by simp [closeRxReady, hclears]) rfl
  case arrive b k => exact arriveByte_rxReadyStep s b k
  case drain => rw [drainByte_eq]; exact .kept rfl
  case writeStart | writePoll => rw [pollTxEmpty_eq_goTo]; exact .kept rfl
  all_goals exact .kept rfl

/-- Any step of the machine, as an effect from the state itself. -/
theorem step_rxReadyStep {s s' : State} (h : step s = .next s') : RxReadyStep s (nextAgent s) s' := by
  cases (step_effect h).2.rxReadyStep with
  | kept ready => exact .kept (by simpa using ready)
  | service agent requested ready log => exact .service agent (by simpa using requested) ready (by simpa using log)
  | poll agent cur ready => exact .poll agent (by simpa using cur) ready
  | close agent clears ready log => exact .close agent (by simpa using clears) ready (by simpa using log)
  | arrive b k agent enabled ready data => exact .arrive b k agent (by simpa using enabled) ready data

end Sys2Proof.Machine

open Sys2Proof Sys2Proof.Machine

/-- Settles O40: the bytes and the logged WRITEs go together. -/
theorem transmittedBytesFollowTheWrites : Obligations.TransmittedBytesFollowTheWrites := by
  intro s s' hinv h
  rcases (step_effect h).2.transmitted hinv.consumeChoice with ⟨hsent, -⟩ | ⟨b, hsent, hlog⟩
  · exact .inl (by simpa using hsent)
  · exact .inr ⟨b, by simpa using hsent, by simpa using hlog⟩

/-- Settles O44: an effect leaves one of the two sides as it was. -/
theorem transmitAndReceiveSidesAreSeparate : Obligations.TransmitAndReceiveSidesAreSeparate := by
  intro s s' h hchanged
  rcases (step_effect h).2.sides with htx | hrx
  · have hsame : s'.txdata = s.txdata ∧ s'.txempty = s.txempty ∧ s'.txline = s.txline := by
      simpa [State.transmitSide] using htx
    tauto
  · simpa [State.receiveSide] using hrx

/-- Settles O53: an effect leaves the cursor, or its agent is the cursor's writer. -/
theorem eachCursorHasOneWriter : Obligations.EachCursorHasOneWriter := by
  intro s s' hinv h
  have heffect := (step_effect h).2
  refine ⟨fun hmoved => ?head, fun hmoved => ?tail⟩
  case head =>
    rcases heffect.head_writer hinv.consumeChoice with hsame | hwriter
    · exact absurd (by simpa using hsame) hmoved
    · simpa using hwriter
  case tail =>
    rcases heffect.tail_writer with hsame | hwriter
    · exact absurd (by simpa using hsame) hmoved
    · simpa using hwriter

/-- Settles O54: FG's log and counter go together, as `FgStep` says. -/
theorem logsGrowAndParametersStay : Obligations.LogsGrowAndParametersStay := by
  intro s s' h
  have heffect := (step_effect h).2
  obtain ⟨hparams, hprog, -⟩ := heffect.constants
  refine ⟨by simpa using hparams, by simpa using hprog, ?fg, by simpa using heffect.prLog⟩
  cases heffect.fgStep with
  | idle cur pc log => exact .inl ⟨by simpa using log, by simpa using pc⟩
  | goOn c agent cur pc log running => exact .inl ⟨by simpa using log, by simpa using pc⟩
  | complete i r agent cur pc log running => exact .inr ⟨⟨i, r⟩, by simpa using log, by simpa using pc⟩

/-- Settles O37: of the writers of "byte ready", RX_ARRIVE alone sets it. -/
theorem byteReadyHasTheStatedWriters : Obligations.ByteReadyHasTheStatedWriters := by
  intro s s' h
  cases step_rxReadyStep h with
  | kept ready => rw [ready]; simp +contextual
  | service agent requested ready log =>
    exact ⟨fun _ _ => .inl ⟨agent.symm, requested, log⟩, fun _ hset => by simp [ready] at hset⟩
  | poll agent cur ready => exact ⟨fun _ _ => .inr (.inl ⟨agent, cur⟩), fun _ hset => by simp [ready] at hset⟩
  | close agent clears ready log =>
    exact ⟨fun _ _ => .inr (.inr ⟨agent, clears, log⟩), fun _ hset => by simp [ready] at hset⟩
  | arrive b k agent enabled ready data =>
    exact ⟨fun _ hcleared => by simp [ready] at hcleared, fun _ _ => ⟨b, k, agent, enabled, data⟩⟩

end

section
/-! PROOFS. The log entries that go with each event of the queue (R90, R91, R94, R105). -/

namespace Sys2Proof.Machine

/-- What the logs tell of an event: a READ entry with a byte of its taking, a FLUSH entry of a discard, a PUSH entry of
its byte's storing or dropping; another entry of FG's or an RXSVC entry of no taking and no discard. -/
inductive Told (s t : State) : QueueEvent → Prop
  | silent (fg : t.fgLog = s.fgLog) (pr : t.prLog = s.prLog) : Told s t .none
  | read (v : Byte) (fg : t.fgLog = s.fgLog ++ [⟨.read, .optByte (some v)⟩]) (pr : t.prLog = s.prLog) :
      Told s t (.taken v)
  | flush (k : Nat) (fg : t.fgLog = s.fgLog ++ [⟨.flush, .done⟩]) (pr : t.prLog = s.prLog) : Told s t (.discarded k)
  | idle (i : Instr) (r : Result) (fg : t.fgLog = s.fgLog ++ [⟨i, r⟩]) (pr : t.prLog = s.prLog) (flush : i ≠ .flush)
      (read : ∀ v, (⟨i, r⟩ : LogEntry) ≠ ⟨.read, .optByte (some v)⟩) : Told s t .none
  | poll (b : Byte) (fg : t.fgLog = s.fgLog ++ [⟨.poll, .done⟩]) (pr : t.prLog = s.prLog) : Told s t (.stored b)
  | pushStore (b : Byte) (fg : t.fgLog = s.fgLog) (pr : t.prLog = s.prLog ++ [⟨.push b, .stored true⟩]) :
      Told s t (.stored b)
  | pushDrop (b : Byte) (fg : t.fgLog = s.fgLog) (pr : t.prLog = s.prLog ++ [⟨.push b, .stored false⟩]) :
      Told s t .none
  | rxsvcStore (b : Byte) (fg : t.fgLog = s.fgLog) (pr : t.prLog = s.prLog ++ [⟨.rxsvc, .done⟩]) : Told s t (.stored b)
  | rxsvcDrop (fg : t.fgLog = s.fgLog) (pr : t.prLog = s.prLog ++ [⟨.rxsvc, .done⟩]) : Told s t .none

theorem Told.of_event {s t : State} {e : QueueEvent} (he : queueEvent s t = e) (h : Told s t e) :
    Told s t (queueEvent s t) := he ▸ h

theorem Effect.told {s t : State} {a : AgentStep} (hinv : Inv s) (h : Effect s a t) : Told s t (queueEvent s t) := by
  cases h
  case readDone h u v hc => exact .of_event (by simp [queueEvent, hc]) (.read v rfl rfl)
  case flushDone h hc =>
    exact .of_event (e := .discarded (countBetween s.params h s.tail)) (by simp [queueEvent, hc]) (.flush _ rfl rfl)
  case pushStore b q _ hroom _ =>
    exact .of_event (queueEvent_of_push hinv hroom rfl (Memory.read_write_same ..)) (.pushStore b rfl rfl)
  case rxsvcStore q _ hroom _ _ =>
    exact .of_event (queueEvent_of_push hinv hroom rfl (Memory.read_write_same ..)) (.rxsvcStore _ rfl rfl)
  case pollDone v h u hc =>
    have hok := hinv.in_flight
    simp only [Machine.inFlightOk, hc] at hok
    obtain ⟨-, rfl, rfl, hroom, hv⟩ := hok
    exact .of_event (queueEvent_of_push hinv hroom rfl hv) (.poll v rfl rfl)
  case pushDrop b q _ _ => exact .of_event (queueEvent_of_fgCur_eq rfl rfl) (.pushDrop b rfl rfl)
  case rxsvcDrop => exact .of_event (queueEvent_of_fgCur_eq rfl rfl) (.rxsvcDrop rfl rfl)
  case hold | fault => exact .of_event (queueEvent_of_fgCur_eq rfl rfl) (.silent rfl rfl)
  case arrive b k => rw [arriveByte_eq]; exact .of_event (queueEvent_of_fgCur_eq rfl rfl) (.silent rfl rfl)
  case drain => rw [drainByte_eq]; exact .of_event (queueEvent_of_fgCur_eq rfl rfl) (.silent rfl rfl)
  case writeStart | writePoll =>
    rw [pollTxEmpty_eq_goTo]; exact .of_event (queueEvent_of_goTo rfl rfl) (.silent rfl rfl)
  case pollNone hc _ _ _ | openDone hc _ | closeDone hc _ =>
    exact .of_event (queueEvent_of_idle rfl hc) (.idle _ _ rfl rfl (by simp) (by simp))
  case readEmpty hc _ | peekEmpty hc _ | peekDone hc _ | availDone hc | pollDrop hc _ | writeDone hc =>
    exact .of_event (by simp [queueEvent, hc]) (.idle _ _ rfl rfl (by simp) (by simp))
  all_goals exact .of_event (queueEvent_of_goTo rfl rfl) (.silent rfl rfl)

end Sys2Proof.Machine

open Sys2Proof Sys2Proof.Machine

/-- Settles O59: an entry tells of one event at most, and a log that got no entry has not grown. -/
theorem queueEventsAreThoseOfTheLogs : Obligations.QueueEventsAreThoseOfTheLogs := by
  intro s s' hinv h
  have htold := (step_effect h).2.told hinv.consumeChoice
  rw [consumeChoice_queueEvent] at htold
  generalize queueEvent s s' = e at htold ⊢
  cases htold with
  | silent fg pr => simp [fg, pr]
  | read v fg pr => simp [fg, pr]
  | flush k fg pr => simp [fg, pr]
  | idle i r fg pr flush read => simpa [fg, pr, flush] using read
  | poll b fg pr => simp [fg, pr]
  | pushStore b fg pr => simp [fg, pr]
  | pushDrop b fg pr => simp [fg, pr]
  | rxsvcStore b fg pr => simp [fg, pr]
  | rxsvcDrop fg pr => simp [fg, pr]

end

section
/-! PROOFS. From a state of the invariant with no fault every request, and so every step, goes on, and none reads an
unwritten slot (R26, R56, R120). -/

namespace Sys2Proof.Machine

variable {s : State}

theorem loadSlot_goes_on {req : Instr} {i : Nat} {k : Byte → Out} (hi : i < s.params.n)
    (hk : ∀ v, ∃ t, k v = .next t) : ∃ t, loadSlot req i s k = .next t := by
  unfold loadSlot
  rw [if_pos hi]
  split
  · exact hk _
  · exact ⟨_, rfl⟩

/-- R43, R56: the next micro-step of the request in flight accesses a slot at a cursor or none. -/
theorem exec_inFlight_goes_on (hinv : Inv s) (hs : s.fault = none) {c : InFlight} (hc : s.fgCur = some c) :
    ∃ t, exec c.request s = .next t := by
  have hok := hinv.in_flight
  simp only [inFlightOk, hc] at hok
  cases c <;>
    simp only [InFlight.request, exec, execRead, execPeek, execAvail, execFlush, execPoll, execWrite,
      unlessFaulted_none hs, hc, if_true]
  case read2 | peek2 | poll4 => split <;> exact ⟨_, rfl⟩
  case read3 | peek3 =>
    obtain ⟨-, rfl, -⟩ := hok
    exact loadSlot_goes_on hinv.tail_lt fun _ => ⟨_, rfl⟩
  case poll5 v h u =>
    obtain ⟨-, rfl, -⟩ := hok
    rw [storeSlot, if_pos hinv.head_lt]
    exact ⟨_, rfl⟩
  all_goals exact ⟨_, rfl⟩

/-- R59 to R62, R106, R110, R116, R117: no request of FG accesses a slot in its first micro-step. -/
theorem exec_start_goes_on (hs : s.fault = none) (hc : s.fgCur = none) {i : Instr} (hp : i.port = .consumer) :
    ∃ t, exec i s = .next t := by
  cases i <;>
    simp only [exec, execRead, execPeek, execAvail, execFlush, execPoll, execWrite, execOpen, execClose,
      unlessFaulted_none hs, hc]
  case push | rxsvc => cases hp
  case poll => split_ifs <;> exact ⟨_, rfl⟩
  case openLine | write => split <;> exact ⟨_, rfl⟩
  all_goals exact ⟨_, rfl⟩

theorem exec_goes_on (hinv : Inv s) (hs : s.fault = none) (i : Instr) : ∃ t, exec i s = .next t := by
  cases hp : i.port with
  | consumer =>
    cases hc : s.fgCur with
    | none => exact exec_start_goes_on hs hc hp
    | some c =>
      by_cases hi : c.request = i
      · exact hi ▸ exec_inFlight_goes_on hinv hs hc
      · exact ⟨s, exec_of_busy hs hp hc hi⟩
  | producer =>
    cases i with
    | push b =>
      by_cases hm : s.params.rxMode = .polled
      · exact ⟨_, (operationChecksTakeTheirFaults s hs).1 b hm⟩
      · have hm : s.params.rxMode = .interrupt := by cases hx : s.params.rxMode <;> simp_all
        exact exec_push_goes_on hs hm hinv.head_lt b
    | rxsvc =>
      by_cases hr : interruptRequested s = true
      · exact ⟨_, exec_rxsvc_of_requested hs hr hinv.head_lt⟩
      · exact ⟨s, rxsvcHoldsUnlessRequested s hs (mt interruptRequested_iff.mpr hr)⟩
    | _ => cases hp

theorem foregroundStep_goes_on (hinv : Inv s) (hs : s.fault = none) : ∃ t, foregroundStep s = .next t := by
  unfold foregroundStep
  split
  · exact exec_goes_on hinv hs _
  · split
    · exact ⟨_, rfl⟩
    · split
      · exact ⟨_, rfl⟩
      · exact exec_goes_on hinv hs _

theorem producerStep_goes_on (hinv : Inv s) (hs : s.fault = none) : ∃ t, producerStep s = .next t := by
  unfold producerStep
  split
  · exact ⟨_, rfl⟩
  · split
    · exact ⟨_, rfl⟩
    · next i _ =>
      split
      · exact ⟨_, rfl⟩
      · obtain ⟨t, ht⟩ := exec_goes_on hinv hs i
        rw [ht]
        exact ⟨_, rfl⟩

/-- R56, R122: nothing but a fault already taken stops the machine. -/
theorem step_goes_on (hinv : Inv s) (hs : s.fault = none) : ∃ t, step s = .next t := by
  have hs' : (consumeChoice s).fault = none := by simpa using hs
  rw [step_eq_agentStep hs]
  cases nextAgent s with
  | foreground => exact foregroundStep_goes_on hinv.consumeChoice hs'
  | producer => exact producerStep_goes_on hinv.consumeChoice hs'
  | interrupt => exact exec_goes_on hinv.consumeChoice hs' .rxsvc
  | rxArrive b keepNew => exact ⟨_, rfl⟩
  | txDrain => exact ⟨_, rfl⟩

/-- R120: the only effect that takes a fault is that of `raise`. -/
theorem Effect.unwrittenRead {t : State} {a : AgentStep} (h : Effect s a t) {f : FaultRecord} (hs : s.fault = none)
    (hf : t.fault = some f) (hcode : f.code = .unwrittenRead) :
    ∃ h u, (s.fgCur = some (.read3 h u) ∨ s.fgCur = some (.peek3 h u)) ∧ Memory.read s.storage u = none := by
  have hkept (hsame : t.fault = s.fault) : False := by simp [hsame, hs] at hf
  cases h
  case fault g hu => cases hf; exact hu hcode
  case arrive b k => rw [arriveByte_eq] at hkept; exact (hkept rfl).elim
  case drain => rw [drainByte_eq] at hkept; exact (hkept rfl).elim
  case writeStart | writePoll => rw [pollTxEmpty_eq_goTo] at hkept; exact (hkept rfl).elim
  all_goals exact (hkept rfl).elim

/-- R26, R66: the slot a READ or PEEK is about to read is the oldest unread one, which has been written. -/
theorem Inv.slot_written (hinv : Inv s) {h u : Nat}
    (hc : s.fgCur = some (.read3 h u) ∨ s.fgCur = some (.peek3 h u)) : Memory.read s.storage u ≠ none := by
  have hok : headCopyOk s h ∧ u = s.tail ∧ h ≠ u := by
    have := hinv.in_flight
    rcases hc with hc | hc <;> simpa only [inFlightOk, hc] using this
  obtain ⟨hcopy, rfl, hne⟩ := hok
  obtain ⟨v, hv, -⟩ := hinv.oldest (hcopy.head_ne_tail hinv.tail_lt hne)
  simp [hv]

end Sys2Proof.Machine

open Sys2Proof Sys2Proof.Machine

/-- Settles O15: without a fault the step goes on, and the slot about to be read has been written. -/
theorem unwrittenReadAndMissingSlotAreUnreachable : Obligations.UnwrittenReadAndMissingSlotAreUnreachable := by
  intro s hinv
  refine ⟨fun k h => ?missing, fun s' f h hf hcode => ?unwritten⟩
  case missing =>
    cases hs : s.fault with
    | some f => rw [step_of_fault hs] at h; cases h
    | none =>
      obtain ⟨t, ht⟩ := step_goes_on hinv hs
      rw [ht] at h
      cases h
  case unwritten =>
    obtain ⟨hs, heffect⟩ := step_effect h
    obtain ⟨_, u, hc, hr⟩ := heffect.unwrittenRead (by simpa using hs) hf hcode
    exact hinv.consumeChoice.slot_written hc hr

end

section
/-! PROOFS. A WRITE that waits (R112) and a receive interrupt that is requested (R127): what a step does to them, that
nothing but TX_DRAIN lets the WRITE go on, and that under fairness both are served (R149). -/

namespace Sys2Proof.Machine

variable {s s' : State}

/-! ### Steps of the other agents -/

/-- R42, R43: FG's own state is FG's alone. -/
theorem step_fg_of_other (h : step s = .next s') (ha : nextAgent s ≠ .foreground) :
    s'.fgCur = s.fgCur ∧ s'.fgPc = s.fgPc ∧ s'.fgLog = s.fgLog := by
  cases (step_effect h).2.fgStep with
  | idle cur pc log => exact ⟨by simpa using cur, by simpa using pc, by simpa using log⟩
  | goOn c agent cur pc log running => exact absurd agent ha
  | complete i r agent cur pc log running => exact absurd agent ha

/-- R37 to R39: the transmit side is FG's and TX_DRAIN's. -/
theorem Effect.transmitSide_of_other {a : AgentStep} (h : Effect s a s') (hf : a ≠ .foreground) (hd : a ≠ .txDrain) :
    s'.transmitSide = s.transmitSide := by
  cases h
  case arrive b k => rw [arriveByte_eq]; rfl
  case drain => exact absurd rfl hd
  case writeStart | writePoll | writeDone => exact absurd rfl hf
  all_goals rfl

theorem step_transmitSide_of_other (h : step s = .next s') (hf : nextAgent s ≠ .foreground)
    (hd : nextAgent s ≠ .txDrain) : s'.txempty = s.txempty ∧ s'.txline = s.txline := by
  have hside := (step_effect h).2.transmitSide_of_other hf hd
  simp only [State.transmitSide, Prod.mk.injEq, consumeChoice_txempty, consumeChoice_txline] at hside
  exact hside.2

/-- R110, R111: only FG fills the transmit register. -/
theorem step_txempty_of_other (h : step s = .next s') (hf : nextAgent s ≠ .foreground) (he : s.txempty = true) :
    s'.txempty = true := by
  by_cases hd : nextAgent s = .txDrain
  · rw [step_txDrain (step_effect h).1 hd] at h
    cases h
    exact drainByte_txempty (by simpa using he)
  · rw [(step_transmitSide_of_other h hf hd).1, he]

/-! ### FG's steps in a WRITE (R110) -/

theorem step_inFlight (hs : s.fault = none) (ha : nextAgent s = .foreground) {c : InFlight} (hc : s.fgCur = some c) :
    step s = exec c.request (consumeChoice s) :=
  (stepContinuesTheForegroundRequest s hs ha).1 c hc

/-- R112: while the transmit register is not empty, FG's turn changes nothing. -/
theorem step_write1_of_full (hs : s.fault = none) (ha : nextAgent s = .foreground) {b : Byte}
    (hc : s.fgCur = some (.write1 b)) (he : s.txempty = false) : step s = .next (consumeChoice s) := by
  have hs' : (consumeChoice s).fault = none := by simpa using hs
  obtain ⟨-, -, hwait, -, -⟩ := writeMicroStepsInOrder b _ hs'
  rw [step_inFlight hs ha hc]
  exact hwait (by simpa using hc) (by simpa using he)

theorem step_write1_of_empty (hs : s.fault = none) (ha : nextAgent s = .foreground) {b : Byte}
    (hc : s.fgCur = some (.write1 b)) (he : s.txempty = true) :
    step s = .next (goTo (.write2 b) (consumeChoice s)) := by
  have hs' : (consumeChoice s).fault = none := by simpa using hs
  obtain ⟨-, -, -, hgo, -⟩ := writeMicroStepsInOrder b _ hs'
  rw [step_inFlight hs ha hc]
  exact hgo (by simpa using hc) (by simpa using he)

theorem step_write2 (hs : s.fault = none) (ha : nextAgent s = .foreground) {b : Byte}
    (hc : s.fgCur = some (.write2 b)) :
    step s = .next (fgComplete (.write b) .done (depositTx b (consumeChoice s))) := by
  have hs' : (consumeChoice s).fault = none := by simpa using hs
  obtain ⟨-, -, -, -, hdeposit⟩ := writeMicroStepsInOrder b _ hs'
  rw [step_inFlight hs ha hc]
  exact hdeposit (by simpa using hc)

/-! ### A WRITE that waits -/

/-- R112: no agent but ENV ends the waiting of a WRITE. -/
theorem step_keeps_write_waiting (h : step s = .next s') {b : Byte} (hc : s.fgCur = some (.write1 b))
    (he : s.txempty = false) (hd : nextAgent s ≠ .txDrain) :
    s'.fgCur = some (.write1 b) ∧ s'.fgPc = s.fgPc ∧ s'.txempty = false ∧ s'.txline = s.txline := by
  by_cases hf : nextAgent s = .foreground
  · rw [step_write1_of_full (step_effect h).1 hf hc he] at h
    cases h
    exact ⟨by simpa using hc, by simp, by simpa using he, by simp⟩
  · obtain ⟨hcur, hpc, -⟩ := step_fg_of_other h hf
    obtain ⟨hempty, hline⟩ := step_transmitSide_of_other h hf hd
    exact ⟨hcur.trans hc, hpc, hempty.trans he, hline⟩

/-- R110: a WRITE in flight at micro-step `c`, with FG's counter and log as in `w`. -/
def WriteAt (w : State) (c : InFlight) (s : State) : Prop := s.fgCur = some c ∧ s.fgPc = w.fgPc ∧ s.fgLog = w.fgLog

/-- R43: the steps of the other agents leave the WRITE where it is. -/
theorem step_writeAt_of_other {w : State} {c : InFlight} (h : step s = .next s') (ha : nextAgent s ≠ .foreground)
    (hw : WriteAt w c s) : WriteAt w c s' := by
  obtain ⟨hcur, hpc, hlog⟩ := step_fg_of_other h ha
  obtain ⟨hcur', hpc', hlog'⟩ := hw
  exact ⟨hcur.trans hcur', hpc.trans hpc', hlog.trans hlog'⟩

theorem WriteAt.consumeChoice {w : State} {c : InFlight} (hw : WriteAt w c s) : WriteAt w c (consumeChoice s) := by
  simpa [WriteAt] using hw

/-- R112: a step that finds the transmit register full leaves a WRITE that waits for it waiting. -/
theorem step_writeAt_of_full {w : State} {b : Byte} (h : step s = .next s') (hw : WriteAt w (.write1 b) s)
    (he : s.txempty = false) : WriteAt w (.write1 b) s' := by
  by_cases ha : nextAgent s = .foreground
  · rw [step_write1_of_full (step_effect h).1 ha hw.1 he] at h
    cases h
    exact hw.consumeChoice
  · exact step_writeAt_of_other h ha hw

/-- R110: FG finds the transmit register empty. -/
theorem step_writeAt_of_empty {w : State} {b : Byte} (h : step s = .next s') (ha : nextAgent s = .foreground)
    (hw : WriteAt w (.write1 b) s) (he : s.txempty = true) : WriteAt w (.write2 b) s' := by
  rw [step_write1_of_empty (step_effect h).1 ha hw.1 he] at h
  cases h
  obtain ⟨-, hpc, hlog⟩ := hw.consumeChoice
  exact ⟨rfl, hpc, hlog⟩

/-- R110: FG makes the deposit. -/
theorem step_write2_completes {w : State} {b : Byte} (h : step s = .next s') (ha : nextAgent s = .foreground)
    (hw : WriteAt w (.write2 b) s) : s'.fgPc = w.fgPc + 1 ∧ s'.fgLog = w.fgLog ++ [⟨.write b, .done⟩] := by
  rw [step_write2 (step_effect h).1 ha hw.1] at h
  cases h
  obtain ⟨-, hpc, hlog⟩ := hw.consumeChoice
  exact ⟨by rw [fgComplete_fgPc, depositTx_fgPc, hpc], by rw [fgComplete_fgLog, depositTx_fgLog, hlog]⟩

/-- R111: TX_DRAIN, where it is enabled, empties the transmit register. -/
theorem step_drains (h : step s = .next s') (ha : nextAgent s = .txDrain) (hd : drainEnabled s = true) :
    s'.txempty = true := by
  rw [step_txDrain (step_effect h).1 ha] at h
  cases h
  have hd' : drainEnabled (consumeChoice s) = true := by simpa [drainEnabled] using hd
  rw [drainByte, if_pos hd', takeTx]

/-- R110: a WRITE that waits got past its check of txen, and no CLOSE ran since. -/
theorem Inv.txen_of_write1 {b : Byte} (hinv : Inv s) (hc : s.fgCur = some (.write1 b)) : s.txen = true := by
  have hok := hinv.in_flight
  simpa only [inFlightOk, hc] using hok

/-- R124: a step takes the first choice off the schedule. -/
theorem step_schedule (h : step s = .next s') {a : AgentStep} {rest : List AgentStep} (hl : s.schedule = a :: rest) :
    nextAgent s = a ∧ s'.schedule = rest := by
  obtain ⟨-, -, hkept⟩ := (step_effect h).2.constants
  exact ⟨by rw [nextAgent, hl], by rw [hkept, consumeChoice, hl]⟩

/-! ### Requests of the receive interrupt -/

/-- R54, R117: in INTERRUPT mode "byte ready" is cleared by the service of the byte or by a CLOSE. -/
theorem step_clears_rxready (hinv : Inv s) (h : step s = .next s') (hm : s.params.rxMode = .interrupt)
    (hready : s.rxready = true) (hcleared : s'.rxready = false) :
    s'.prLog = s.prLog ++ [⟨.rxsvc, .done⟩] ∨ s'.fgLog = s.fgLog ++ [⟨.close, .done⟩] := by
  cases step_rxReadyStep h with
  | service agent requested ready log => exact .inl log
  | close agent clears ready log => exact .inr log
  | kept ready => simp [ready, hready] at hcleared
  | arrive b k agent enabled ready data => simp [ready] at hcleared
  | poll agent cur ready =>
    have hok := hinv.in_flight
    simp only [inFlightOk, cur, hm] at hok
    cases hok.1

/-- R31, R117: the receive-interrupt enable is cleared by a CLOSE. -/
theorem step_clears_rxie (h : step s = .next s') (hie : s.rxie = true) (hcleared : s'.rxie = false) :
    s'.fgLog = s.fgLog ++ [⟨.close, .done⟩] := by
  rcases step_enables h with hkept | ⟨-, i, on, hwrites, hlog, hall⟩
  · obtain ⟨-, -, -, hsame⟩ := State.enables_eq_iff.mp hkept
    simp [hsame, hie] at hcleared
  · obtain ⟨-, -, -, hon⟩ := State.enables_eq_all_iff.mp hall
    cases hwrites with
    | openLine baud => simp [hon] at hcleared
    | close => exact hlog

/-- R126: the request of the interrupt ends with the service of the byte or with a CLOSE. -/
theorem step_ends_request (hinv : Inv s) (h : step s = .next s') (hr : interruptRequested s = true)
    (hended : interruptRequested s' = false) :
    s'.prLog = s.prLog ++ [⟨.rxsvc, .done⟩] ∨ s'.fgLog = s.fgLog ++ [⟨.close, .done⟩] := by
  obtain ⟨hm, hie, hready⟩ := interruptRequested_iff.mp hr
  have hparams : s'.params = s.params := (logsGrowAndParametersStay s s' h).1
  cases hready' : s'.rxready with
  | false => exact step_clears_rxready hinv h hm hready hready'
  | true =>
    refine .inr (step_clears_rxie h hie ?_)
    simpa [interruptRequested, hparams, hm, hready'] using hended

/-- R105, R127: the delivery of a requested interrupt clears "byte ready" and with it the request. -/
theorem step_interrupt_serves (hinv : Inv s) (h : step s = .next s') (ha : nextAgent s = .interrupt)
    (hr : interruptRequested s = true) : interruptRequested s' = false := by
  have hs := (step_effect h).1
  rw [step_interrupt hs ha, exec_rxsvc_of_requested (by simpa using hs) (by simpa using hr) (by simpa using hinv.head_lt)]
    at h
  cases h
  simp [interruptRequested]

/-! ### Endless runs -/

/-- Where `P` holds and lasts until `Q` comes, and `Q` comes in the end if `P` lasts, `Q` comes while `P` holds. -/
theorem exists_of_lasts {P Q : Nat → Prop} {k : Nat} (hk : P k) (hlasts : ∀ j, k ≤ j → P j → P (j + 1) ∨ Q j)
    (hcomes : ∃ j, k ≤ j ∧ (P j → Q j)) : ∃ j, k ≤ j ∧ P j ∧ Q j := by
  by_contra hnever
  have hall : ∀ j, k ≤ j → P j := fun j hj => by
    induction j, hj using Nat.le_induction with
    | base => exact hk
    | succ j hj hP => exact (hlasts j hj hP).resolve_right fun hQ => hnever ⟨j, hj, hP, hQ⟩
  obtain ⟨j, hj, hPQ⟩ := hcomes
  exact hnever ⟨j, hj, hall j hj, hPQ (hall j hj)⟩

variable {a : Nat → AgentStep} {r : Nat → State}

/-- The invariant lasts along a run. -/
theorem IsRun.inv (hrun : IsRun a r) {k j : Nat} (hinv : Inv (r k)) (hj : k ≤ j) : Inv (r j) := by
  induction j, hj using Nat.le_induction with
  | base => exact hinv
  | succ j hj ih => exact stepKeepsTheInvariant _ _ (ih.withChoices [a j] (r j).freeCount) (hrun j)

/-- R112: under `TxDrainFair` the transmit register a WRITE waits for is emptied. -/
theorem IsRun.register_empties (hrun : IsRun a r) (hfair : TxDrainFair a r) {k : Nat} {w : State} {b : Byte}
    (hinv : Inv (r k)) (hw : WriteAt w (.write1 b) (r k)) :
    ∃ j, k ≤ j ∧ WriteAt w (.write1 b) (r j) ∧ (r j).txempty = true := by
  cases he : (r k).txempty with
  | true => exact ⟨k, le_rfl, hw, he⟩
  | false =>
    have hlasts : ∀ j, k ≤ j → WriteAt w (.write1 b) (r j) ∧ (r j).txempty = false →
        (WriteAt w (.write1 b) (r (j + 1)) ∧ (r (j + 1)).txempty = false) ∨
          (WriteAt w (.write1 b) (r (j + 1)) ∧ (r (j + 1)).txempty = true) := fun j _ hwait => by
      rw [← and_or_left]
      exact ⟨step_writeAt_of_full (hrun j) hwait.1 hwait.2, (Bool.eq_false_or_eq_true _).symm⟩
    have hcomes : ∃ j, k ≤ j ∧ (WriteAt w (.write1 b) (r j) ∧ (r j).txempty = false →
        WriteAt w (.write1 b) (r (j + 1)) ∧ (r (j + 1)).txempty = true) := by
      obtain ⟨j, hj, hfairly⟩ := hfair k
      refine ⟨j, hj, fun hwait => ⟨step_writeAt_of_full (hrun j) hwait.1 hwait.2, ?_⟩⟩
      have henabled : drainEnabled (r j) = true :=
        drainEnabled_iff.mpr ⟨(hrun.inv hinv hj).txen_of_write1 hwait.1.1, hwait.2⟩
      rcases hfairly with hdisabled | hchosen
      · rw [henabled] at hdisabled; cases hdisabled
      · exact step_drains (hrun j) hchosen henabled
    obtain ⟨j, hj, -, hempty⟩ := exists_of_lasts ⟨hw, he⟩ hlasts hcomes
    exact ⟨j + 1, Nat.le_succ_of_le hj, hempty⟩

/-- R110: with the register empty and FG chosen again and again, the WRITE goes to its deposit. -/
theorem IsRun.write_reaches_deposit (hrun : IsRun a r) (hfair : ForegroundFair a) {k : Nat} {w : State} {b : Byte}
    (hw : WriteAt w (.write1 b) (r k)) (he : (r k).txempty = true) : ∃ j, k ≤ j ∧ WriteAt w (.write2 b) (r j) := by
  have hlasts : ∀ j, k ≤ j → WriteAt w (.write1 b) (r j) ∧ (r j).txempty = true →
      (WriteAt w (.write1 b) (r (j + 1)) ∧ (r (j + 1)).txempty = true) ∨ WriteAt w (.write2 b) (r (j + 1)) :=
    fun j _ hready => by
      by_cases ha : a j = .foreground
      · exact .inr (step_writeAt_of_empty (hrun j) ha hready.1 hready.2)
      · exact .inl ⟨step_writeAt_of_other (hrun j) ha hready.1, step_txempty_of_other (hrun j) ha hready.2⟩
  obtain ⟨j, hj, ha⟩ := hfair k
  obtain ⟨j, hj, -, hdeposit⟩ := exists_of_lasts ⟨hw, he⟩ hlasts
    ⟨j, hj, fun hready => step_writeAt_of_empty (hrun j) ha hready.1 hready.2⟩
  exact ⟨j + 1, Nat.le_succ_of_le hj, hdeposit⟩

/-- R110: with FG chosen again and again, the deposit is made and the WRITE completes. -/
theorem IsRun.write_completes (hrun : IsRun a r) (hfair : ForegroundFair a) {k : Nat} {w : State} {b : Byte}
    (hw : WriteAt w (.write2 b) (r k)) :
    ∃ j, k < j ∧ (r j).fgPc = w.fgPc + 1 ∧ (r j).fgLog = w.fgLog ++ [⟨.write b, .done⟩] := by
  have hlasts : ∀ j, k ≤ j → WriteAt w (.write2 b) (r j) →
      WriteAt w (.write2 b) (r (j + 1)) ∨
        ((r (j + 1)).fgPc = w.fgPc + 1 ∧ (r (j + 1)).fgLog = w.fgLog ++ [⟨.write b, .done⟩]) := fun j _ hw => by
    by_cases ha : a j = .foreground
    · exact .inr (step_write2_completes (hrun j) ha hw)
    · exact .inl (step_writeAt_of_other (hrun j) ha hw)
  obtain ⟨j, hj, ha⟩ := hfair k
  obtain ⟨j, hj, -, hdone⟩ := exists_of_lasts hw hlasts ⟨j, hj, fun hw => step_write2_completes (hrun j) ha hw⟩
  exact ⟨j + 1, Nat.lt_succ_of_le hj, hdone⟩

end Sys2Proof.Machine

open Sys2Proof Sys2Proof.Machine

/-- Settles O41, by induction on the number of steps: each takes a choice that is not TX_DRAIN off the schedule and
leaves the WRITE waiting. -/
theorem writeWithoutDrainNeverCompletes : Obligations.WriteWithoutDrainNeverCompletes := by
  intro k
  induction k with
  | zero => intro s s' b hc he _ _ h; cases h; exact ⟨hc, rfl, he, rfl⟩
  | succ k ih =>
    intro s s' b hc he hk hd h
    obtain ⟨a, rest, hl⟩ := List.exists_cons_of_length_pos (Nat.lt_of_lt_of_le (Nat.succ_pos k) hk)
    obtain ⟨t, (hs : step s = .next t), hrest⟩ := run_succ_next h
    obtain ⟨ha, hschedule⟩ := step_schedule hs hl
    rw [hl, List.mem_cons, not_or] at hd
    obtain ⟨hc', hpc, he', hline⟩ := step_keeps_write_waiting hs hc he (ha ▸ Ne.symm hd.1)
    rw [hl, List.length_cons, Nat.succ_le_succ_iff] at hk
    obtain ⟨hcur, hpc', hempty, hline'⟩ := ih t s' b hc' he' (hschedule ▸ hk) (hschedule ▸ hd.2) hrest
    exact ⟨hcur, hpc'.trans hpc, hempty, hline'.trans hline⟩

/-- Settles O42: the register is emptied, FG finds it empty, and FG makes the deposit. -/
theorem writeCompletesUnderFairDrain : Obligations.WriteCompletesUnderFairDrain := by
  intro a r k b hrun hdrain hfg hinv hc
  obtain ⟨j, hj, hw, he⟩ := hrun.register_empties hdrain hinv ⟨hc, rfl, rfl⟩
  obtain ⟨l, hl, hw⟩ := hrun.write_reaches_deposit hfg hw he
  obtain ⟨m, hm, hdone⟩ := hrun.write_completes hfg hw
  exact ⟨m, (hj.trans hl).trans_lt hm, hdone⟩

/-- Settles O43: the request lasts until a step ends it, which the delivery of the interrupt does. -/
theorem requestedInterruptIsServedOrClosedUnderFairness :
    Obligations.RequestedInterruptIsServedOrClosedUnderFairness := by
  intro a r k hrun hfair hinv hr
  have hinv' (j : Nat) (hj : k ≤ j) : Inv { r j with schedule := [a j] } := (hrun.inv hinv hj).withChoices ..
  have hlasts : ∀ j, k ≤ j → interruptRequested (r j) = true →
      interruptRequested (r (j + 1)) = true ∨ interruptRequested (r (j + 1)) = false := fun _ _ _ =>
    Bool.eq_false_or_eq_true _
  have hcomes : ∃ j, k ≤ j ∧ (interruptRequested (r j) = true → interruptRequested (r (j + 1)) = false) := by
    obtain ⟨j, hj, hfairly⟩ := hfair k
    refine ⟨j, hj, fun hr => ?_⟩
    rcases hfairly with hended | hchosen
    · rw [hr] at hended; cases hended
    · exact step_interrupt_serves (hinv' j hj) (hrun j) hchosen hr
  obtain ⟨j, hj, hr, hended⟩ := exists_of_lasts hr hlasts hcomes
  exact ⟨j, hj, hr, hended, step_ends_request (s := { r j with schedule := [a j] }) (hinv' j hj) (hrun j) hr hended⟩

end
